-- ==== Sys2Proof/Word.lean ====
section
/-! DEFINITION. The word types of the machine and the zero extensions between them (spec/00_scope.md R8, R9; all widening
in this hardware is zero extension, R11). -/

namespace Sys2Proof

/-- A byte: a general register, a timer, a memory cell (R5 `XLEN`, `TLEN`). -/
abbrev Byte := BitVec 8

/-- A 16-bit word: the address register, the program counter, a return address, an instruction word (R5). -/
abbrev Word := BitVec 16

/-- The 12-bit immediate `nnn` (R10). -/
abbrev Imm12 := BitVec 12

/-- A register number 0..15. It is an index, not a quantity the machine computes with: every value names a register (R73). -/
abbrev Reg := Fin 16

/-- A key number 0..15 (R29). -/
abbrev Key := Fin 16

/-- The row count `n` of `DRW`, 0..15 (R10, R73). -/
abbrev RowCount := Fin 16

/-- `zext_16` of a byte (R11). -/
def zext16 (b : Byte) : Word := b.setWidth 16

/-- `zext_16` of a 12-bit immediate (R11). -/
def zextImm (nnn : Imm12) : Word := nnn.setWidth 16

/-- `zext_8` of a 4-bit number (R11, R153). -/
def zext8 (k : Fin 16) : Byte := BitVec.ofNat 8 k.val

end Sys2Proof
end

