-- ==== Sys2Proof/Config.lean ====
section
/-! DEFINITION. What is fixed for the machine (spec/00_scope.md R5) and the one value the spec leaves free, the byte drawn by
`RND` (R7, R140). The parameters that the spec itself fixes by decision (R6) stand with the operations that use them, under
Sys2Proof/Machine/. -/

namespace Sys2Proof.Config

/-- `MEM_SIZE` (R5): addresses 0..4095. -/
def memSize : Nat := 4096

/-- `FONT_BASE` (R5): the address of the built-in sprite table. -/
def fontBase : Nat := 0

/-- `PROG_BASE` (R5): the address the program image is copied to. -/
def progBase : Nat := 0x200

/-- The largest image a reset accepts, `MEM_SIZE - PROG_BASE` (R191). -/
def maxImage : Nat := 3584

/-- `STACK_DEPTH` (R5). -/
def stackDepth : Nat := 16

/-- The free value of the model: the byte of the `n`-th draw (R140: "a model takes `r` as a draw under no law except its
range"). It has no body, so no proof can see a value of it. Assumption log 3. -/
opaque randomByte : Nat → Byte

end Sys2Proof.Config
end

