-- ==== Sys2Proof/Syntax.lean ====
section
/-! DEFINITION. The 34 operations as data, one constructor per row of spec/opcode_table.json, with the fields of
spec/30_encoding.md R83, in the order of R75. -/

namespace Sys2Proof

/-- A decoded operation (R74, R75, R83). -/
inductive Instr where
  /-- `CLS`, 00E0 (R146). -/
  | cls
  /-- `RET`, 00EE (R102). -/
  | ret
  /-- `JP nnn`, 1NNN (R100). -/
  | jp (nnn : Imm12)
  /-- `CALL nnn`, 2NNN (R101). -/
  | call (nnn : Imm12)
  /-- `SE Vx, kk`, 3XKK (R103). -/
  | seImm (x : Reg) (kk : Byte)
  /-- `SNE Vx, kk`, 4XKK (R104). -/
  | sneImm (x : Reg) (kk : Byte)
  /-- `SE Vx, Vy`, 5XY0 (R105). -/
  | seReg (x y : Reg)
  /-- `LD Vx, kk`, 6XKK (R111). -/
  | ldImm (x : Reg) (kk : Byte)
  /-- `ADD Vx, kk`, 7XKK (R112). -/
  | addImm (x : Reg) (kk : Byte)
  /-- `LD Vx, Vy`, 8XY0 (R113). -/
  | ldReg (x y : Reg)
  /-- `OR Vx, Vy`, 8XY1 (R114). -/
  | orReg (x y : Reg)
  /-- `AND Vx, Vy`, 8XY2 (R115). -/
  | andReg (x y : Reg)
  /-- `XOR Vx, Vy`, 8XY3 (R116). -/
  | xorReg (x y : Reg)
  /-- `ADD Vx, Vy`, 8XY4 (R117). -/
  | addReg (x y : Reg)
  /-- `SUB Vx, Vy`, 8XY5 (R118). -/
  | sub (x y : Reg)
  /-- `SHR Vx`, 8XY6 (R120); `y` is carried and not used (R78). -/
  | shr (x y : Reg)
  /-- `SUBN Vx, Vy`, 8XY7 (R121). -/
  | subn (x y : Reg)
  /-- `SHL Vx`, 8XYE (R119); `y` is carried and not used (R78). -/
  | shl (x y : Reg)
  /-- `SNE Vx, Vy`, 9XY0 (R106). -/
  | sneReg (x y : Reg)
  /-- `LD I, nnn`, ANNN (R130). -/
  | ldI (nnn : Imm12)
  /-- `JP V0, nnn`, BNNN (R107). -/
  | jpV0 (nnn : Imm12)
  /-- `RND Vx, kk`, CXKK (R140). -/
  | rnd (x : Reg) (kk : Byte)
  /-- `DRW Vx, Vy, n`, DXYN (R145). -/
  | drw (x y : Reg) (n : RowCount)
  /-- `SKP Vx`, EX9E (R150). -/
  | skp (x : Reg)
  /-- `SKNP Vx`, EXA1 (R151). -/
  | sknp (x : Reg)
  /-- `LD Vx, DT`, FX07 (R157). -/
  | ldVxDT (x : Reg)
  /-- `LD Vx, K`, FX0A (R152). -/
  | ldVxK (x : Reg)
  /-- `LD DT, Vx`, FX15 (R158). -/
  | ldDTVx (x : Reg)
  /-- `LD ST, Vx`, FX18 (R159). -/
  | ldSTVx (x : Reg)
  /-- `ADD I, Vx`, FX1E (R131). -/
  | addI (x : Reg)
  /-- `LD F, Vx`, FX29 (R135). -/
  | ldF (x : Reg)
  /-- `LD B, Vx`, FX33 (R134). -/
  | ldB (x : Reg)
  /-- `LD [I], Vx`, FX55 (R132). -/
  | ldMemVx (x : Reg)
  /-- `LD Vx, [I]`, FX65 (R133). -/
  | ldVxMem (x : Reg)
  deriving DecidableEq, Repr

end Sys2Proof
end

