-- ==== Sys2Proof/WellFormed.lean ====
section
/-! DEFINITION. What makes a term legal: the operand ranges of an instruction (spec/30_encoding.md R73) and the size of a
program image (spec/70_reset_and_hazards.md R191). -/

namespace Sys2Proof

/-- The operand ranges of R73, field by field. The types of Syntax.lean carry these bounds, because the spec makes every value of
every field legal ("every value is a valid register, so no register-number field can be illegal"): the check holds of
every term (Laws/Encoding.lean, `Instr.wellFormed_all`). -/
def Instr.wellFormed : Instr → Bool
  | .cls | .ret => true
  | .jp nnn | .call nnn | .ldI nnn | .jpV0 nnn => decide (nnn.toNat < 4096)
  | .seImm x kk | .sneImm x kk | .ldImm x kk | .addImm x kk | .rnd x kk =>
    decide (x.val < 16) && decide (kk.toNat < 256)
  | .seReg x y | .sneReg x y | .ldReg x y | .orReg x y | .andReg x y | .xorReg x y | .addReg x y | .sub x y | .shr x y
  | .subn x y | .shl x y => decide (x.val < 16) && decide (y.val < 16)
  | .drw x y n => decide (x.val < 16) && decide (y.val < 16) && decide (n.val < 16)
  | .skp x | .sknp x | .ldVxDT x | .ldVxK x | .ldDTVx x | .ldSTVx x | .addI x | .ldF x | .ldB x | .ldMemVx x
  | .ldVxMem x => decide (x.val < 16)

/-- The size check of a program image, "accepted exactly when `0 <= len <= 3584`" (R191). The image is not inspected in
any other way. -/
def imageFits (image : List Byte) : Bool := decide (image.length ≤ Config.maxImage)

end Sys2Proof
end

