-- ==== Sys2Proof/Decode.lean ====
section
/-! DEFINITION. The decoder of spec/30_encoding.md R71 to R79, the opcode map of R75 as data, and the encoder of R80. Decoding
is total: a word that matches no row is a decode failure that names the word (R77). The bit patterns are the standard
CHIP-8 ones that the spec supplies by its decisions D2 to D4 (assumption log 23). -/

namespace Sys2Proof

/-- Why bytes do not decode. -/
inductive DecodeError where
  /-- `DecodeError(w)` of R74: the word matches no row of R75. -/
  | unrecognised (w : Word)
  /-- Fewer than two bytes: no instruction word is there (R70). The step never meets it, since a fetch has both bytes. -/
  | tooFewBytes
  deriving DecidableEq, Repr

/-! ### Fields (R10, R71) -/

/-- `op = w[15:12]`. -/
def fieldOp (w : Word) : BitVec 4 := w.extractLsb' 12 4
/-- `x = w[11:8]`. -/
def fieldX (w : Word) : Reg := (w.extractLsb' 8 4).toFin
/-- `y = w[7:4]`. -/
def fieldY (w : Word) : Reg := (w.extractLsb' 4 4).toFin
/-- `n = w[3:0]`. -/
def fieldN (w : Word) : RowCount := (w.extractLsb' 0 4).toFin
/-- `kk = w[7:0]`. -/
def fieldKK (w : Word) : Byte := w.extractLsb' 0 8
/-- `nnn = w[11:0]`. -/
def fieldNNN (w : Word) : Imm12 := w.extractLsb' 0 12

/-! ### The decoder (R74): dispatch on the top nibble, then on the trailing bits of the families 0, 5, 8, 9, E, F -/

/-- The family `0x0`: the two exact words (R78). -/
def decodeFamily0 (w : Word) : Except DecodeError Instr :=
  if w = 0x00E0#16 then .ok .cls else if w = 0x00EE#16 then .ok .ret else .error (.unrecognised w)

/-- The family `0x8`: the low nibble selects. -/
def decodeFamily8 (w : Word) : Except DecodeError Instr :=
  match (fieldN w).val with
  | 0x0 => .ok (.ldReg (fieldX w) (fieldY w))
  | 0x1 => .ok (.orReg (fieldX w) (fieldY w))
  | 0x2 => .ok (.andReg (fieldX w) (fieldY w))
  | 0x3 => .ok (.xorReg (fieldX w) (fieldY w))
  | 0x4 => .ok (.addReg (fieldX w) (fieldY w))
  | 0x5 => .ok (.sub (fieldX w) (fieldY w))
  | 0x6 => .ok (.shr (fieldX w) (fieldY w))
  | 0x7 => .ok (.subn (fieldX w) (fieldY w))
  | 0xE => .ok (.shl (fieldX w) (fieldY w))
  | _ => .error (.unrecognised w)

/-- The family `0xE`: the low byte selects. -/
def decodeFamilyE (w : Word) : Except DecodeError Instr :=
  if fieldKK w = 0x9E#8 then .ok (.skp (fieldX w))
  else if fieldKK w = 0xA1#8 then .ok (.sknp (fieldX w))
  else .error (.unrecognised w)

/-- The family `0xF`: the low byte selects. -/
def decodeFamilyF (w : Word) : Except DecodeError Instr :=
  if fieldKK w = 0x07#8 then .ok (.ldVxDT (fieldX w))
  else if fieldKK w = 0x0A#8 then .ok (.ldVxK (fieldX w))
  else if fieldKK w = 0x15#8 then .ok (.ldDTVx (fieldX w))
  else if fieldKK w = 0x18#8 then .ok (.ldSTVx (fieldX w))
  else if fieldKK w = 0x1E#8 then .ok (.addI (fieldX w))
  else if fieldKK w = 0x29#8 then .ok (.ldF (fieldX w))
  else if fieldKK w = 0x33#8 then .ok (.ldB (fieldX w))
  else if fieldKK w = 0x55#8 then .ok (.ldMemVx (fieldX w))
  else if fieldKK w = 0x65#8 then .ok (.ldVxMem (fieldX w))
  else .error (.unrecognised w)

/-- `Decode(w)` of R74: pure and total on the 65536 words. -/
def decodeWord (w : Word) : Except DecodeError Instr :=
  match (fieldOp w).toNat with
  | 0x0 => decodeFamily0 w
  | 0x1 => .ok (.jp (fieldNNN w))
  | 0x2 => .ok (.call (fieldNNN w))
  | 0x3 => .ok (.seImm (fieldX w) (fieldKK w))
  | 0x4 => .ok (.sneImm (fieldX w) (fieldKK w))
  | 0x5 => if fieldN w = 0 then .ok (.seReg (fieldX w) (fieldY w)) else .error (.unrecognised w)
  | 0x6 => .ok (.ldImm (fieldX w) (fieldKK w))
  | 0x7 => .ok (.addImm (fieldX w) (fieldKK w))
  | 0x8 => decodeFamily8 w
  | 0x9 => if fieldN w = 0 then .ok (.sneReg (fieldX w) (fieldY w)) else .error (.unrecognised w)
  | 0xA => .ok (.ldI (fieldNNN w))
  | 0xB => .ok (.jpV0 (fieldNNN w))
  | 0xC => .ok (.rnd (fieldX w) (fieldKK w))
  | 0xD => .ok (.drw (fieldX w) (fieldY w) (fieldN w))
  | 0xE => decodeFamilyE w
  | _ => decodeFamilyF w

/-- The instruction word of two bytes, the first byte high (R55, decision D1). -/
def wordOfBytes (hi lo : Byte) : Word := hi ++ lo

/-- The high byte of a word, the one at the lower address (R55). -/
def highByte (w : Word) : Byte := w.extractLsb' 8 8

/-- The low byte of a word, the one at the higher address (R55). -/
def lowByte (w : Word) : Byte := w.extractLsb' 0 8

/-- Decoding the front of a byte sequence: the instruction and the bytes after it. -/
def decodeBytes : List Byte → Except DecodeError (Instr × List Byte)
  | hi :: lo :: rest =>
    match decodeWord (wordOfBytes hi lo) with
    | .ok i => .ok (i, rest)
    | .error e => .error e
  | _ => .error .tooFewBytes

/-- The bytes of an instruction word as memory holds them, the first at the lowest address (R55). -/
def bytesOfWord (w : Word) : List Byte := [highByte w, lowByte w]

/-- The word of the opcode table's numbering: `nbits` bits of `w`, every bit above them 0. -/
def tableWord (nbits w : Nat) : Word := BitVec.ofNat 16 (w % 2 ^ nbits)

/-- The instruction the decoder reads from the word that spec/opcode_table.json numbers `w`. -/
def decodeTableWord (nbits w : Nat) : Option Instr :=
  match decodeBytes (bytesOfWord (tableWord nbits w)) with
  | .ok (i, _) => some i
  | .error _ => none

/-! ### The opcode map (R75) as data -/

/-- A row of R75: `w` selects the row exactly when `w AND mask = pattern` (the column `match`). -/
structure OpcodeRow where
  pattern : Word
  mask : Word
  deriving DecidableEq, Repr

/-- `w AND mask = match` (R75). -/
def OpcodeRow.selects (r : OpcodeRow) (w : Word) : Bool := w &&& r.mask == r.pattern

/-- The row of R75 an operation belongs to. -/
def Instr.row : Instr → OpcodeRow
  | .cls => ⟨0x00E0#16, 0xFFFF#16⟩
  | .ret => ⟨0x00EE#16, 0xFFFF#16⟩
  | .jp _ => ⟨0x1000#16, 0xF000#16⟩
  | .call _ => ⟨0x2000#16, 0xF000#16⟩
  | .seImm _ _ => ⟨0x3000#16, 0xF000#16⟩
  | .sneImm _ _ => ⟨0x4000#16, 0xF000#16⟩
  | .seReg _ _ => ⟨0x5000#16, 0xF00F#16⟩
  | .ldImm _ _ => ⟨0x6000#16, 0xF000#16⟩
  | .addImm _ _ => ⟨0x7000#16, 0xF000#16⟩
  | .ldReg _ _ => ⟨0x8000#16, 0xF00F#16⟩
  | .orReg _ _ => ⟨0x8001#16, 0xF00F#16⟩
  | .andReg _ _ => ⟨0x8002#16, 0xF00F#16⟩
  | .xorReg _ _ => ⟨0x8003#16, 0xF00F#16⟩
  | .addReg _ _ => ⟨0x8004#16, 0xF00F#16⟩
  | .sub _ _ => ⟨0x8005#16, 0xF00F#16⟩
  | .shr _ _ => ⟨0x8006#16, 0xF00F#16⟩
  | .subn _ _ => ⟨0x8007#16, 0xF00F#16⟩
  | .shl _ _ => ⟨0x800E#16, 0xF00F#16⟩
  | .sneReg _ _ => ⟨0x9000#16, 0xF00F#16⟩
  | .ldI _ => ⟨0xA000#16, 0xF000#16⟩
  | .jpV0 _ => ⟨0xB000#16, 0xF000#16⟩
  | .rnd _ _ => ⟨0xC000#16, 0xF000#16⟩
  | .drw _ _ _ => ⟨0xD000#16, 0xF000#16⟩
  | .skp _ => ⟨0xE09E#16, 0xF0FF#16⟩
  | .sknp _ => ⟨0xE0A1#16, 0xF0FF#16⟩
  | .ldVxDT _ => ⟨0xF007#16, 0xF0FF#16⟩
  | .ldVxK _ => ⟨0xF00A#16, 0xF0FF#16⟩
  | .ldDTVx _ => ⟨0xF015#16, 0xF0FF#16⟩
  | .ldSTVx _ => ⟨0xF018#16, 0xF0FF#16⟩
  | .addI _ => ⟨0xF01E#16, 0xF0FF#16⟩
  | .ldF _ => ⟨0xF029#16, 0xF0FF#16⟩
  | .ldB _ => ⟨0xF033#16, 0xF0FF#16⟩
  | .ldMemVx _ => ⟨0xF055#16, 0xF0FF#16⟩
  | .ldVxMem _ => ⟨0xF065#16, 0xF0FF#16⟩

/-- Rows 1 to 12 of R75. -/
def opcodeRows1 : List OpcodeRow :=
  [⟨0x00E0#16, 0xFFFF#16⟩, ⟨0x00EE#16, 0xFFFF#16⟩, ⟨0x1000#16, 0xF000#16⟩, ⟨0x2000#16, 0xF000#16⟩,
   ⟨0x3000#16, 0xF000#16⟩, ⟨0x4000#16, 0xF000#16⟩, ⟨0x5000#16, 0xF00F#16⟩, ⟨0x6000#16, 0xF000#16⟩,
   ⟨0x7000#16, 0xF000#16⟩, ⟨0x8000#16, 0xF00F#16⟩, ⟨0x8001#16, 0xF00F#16⟩, ⟨0x8002#16, 0xF00F#16⟩]

/-- Rows 13 to 24 of R75. -/
def opcodeRows2 : List OpcodeRow :=
  [⟨0x8003#16, 0xF00F#16⟩, ⟨0x8004#16, 0xF00F#16⟩, ⟨0x8005#16, 0xF00F#16⟩, ⟨0x8006#16, 0xF00F#16⟩,
   ⟨0x8007#16, 0xF00F#16⟩, ⟨0x800E#16, 0xF00F#16⟩, ⟨0x9000#16, 0xF00F#16⟩, ⟨0xA000#16, 0xF000#16⟩,
   ⟨0xB000#16, 0xF000#16⟩, ⟨0xC000#16, 0xF000#16⟩, ⟨0xD000#16, 0xF000#16⟩, ⟨0xE09E#16, 0xF0FF#16⟩]

/-- Rows 25 to 34 of R75. -/
def opcodeRows3 : List OpcodeRow :=
  [⟨0xE0A1#16, 0xF0FF#16⟩, ⟨0xF007#16, 0xF0FF#16⟩, ⟨0xF00A#16, 0xF0FF#16⟩, ⟨0xF015#16, 0xF0FF#16⟩,
   ⟨0xF018#16, 0xF0FF#16⟩, ⟨0xF01E#16, 0xF0FF#16⟩, ⟨0xF029#16, 0xF0FF#16⟩, ⟨0xF033#16, 0xF0FF#16⟩,
   ⟨0xF055#16, 0xF0FF#16⟩, ⟨0xF065#16, 0xF0FF#16⟩]

/-- The 34 rows of R75. -/
def opcodeMap : List OpcodeRow := opcodeRows1 ++ opcodeRows2 ++ opcodeRows3

/-! ### The encoder (R80): `match OR` the operand fields placed by the format of R72 -/

/-- `x << 8`. -/
def placeX (x : Reg) : Word := BitVec.ofNat 16 x.val <<< 8
/-- `y << 4`. -/
def placeY (y : Reg) : Word := BitVec.ofNat 16 y.val <<< 4
/-- `n` in bits 3..0. -/
def placeN (n : RowCount) : Word := BitVec.ofNat 16 n.val

/-- The operand fields of an operation in their places (R72). -/
def Instr.operandBits : Instr → Word
  | .cls | .ret => 0#16
  | .jp nnn | .call nnn | .ldI nnn | .jpV0 nnn => zextImm nnn
  | .seImm x kk | .sneImm x kk | .ldImm x kk | .addImm x kk | .rnd x kk => placeX x ||| zext16 kk
  | .seReg x y | .sneReg x y | .ldReg x y | .orReg x y | .andReg x y | .xorReg x y | .addReg x y | .sub x y | .shr x y
  | .subn x y | .shl x y => placeX x ||| placeY y
  | .drw x y n => placeX x ||| placeY y ||| placeN n
  | .skp x | .sknp x | .ldVxDT x | .ldVxK x | .ldDTVx x | .ldSTVx x | .addI x | .ldF x | .ldB x | .ldMemVx x
  | .ldVxMem x => placeX x

/-- `Encode` of R80. -/
def encode (i : Instr) : Word := i.row.pattern ||| i.operandBits

end Sys2Proof
end

