-- ==== Sys2Proof/Machine/Font.lean ====
section
/-! DEFINITION. The built-in sprite table (spec/10_state.md R33): 16 glyphs of 5 bytes at `FONT_BASE`. The bytes, the size and
the stride are the standard CHIP-8 ones the spec takes by its decision D16 (assumption log 15). -/

namespace Sys2Proof.Machine

/-- Glyphs 0 to 7 of R33. -/
def fontLow : List Byte :=
  [0xF0, 0x90, 0x90, 0x90, 0xF0,
   0x20, 0x60, 0x20, 0x20, 0x70,
   0xF0, 0x10, 0xF0, 0x80, 0xF0,
   0xF0, 0x10, 0xF0, 0x10, 0xF0,
   0x90, 0x90, 0xF0, 0x10, 0x10,
   0xF0, 0x80, 0xF0, 0x10, 0xF0,
   0xF0, 0x80, 0xF0, 0x90, 0xF0,
   0xF0, 0x10, 0x20, 0x40, 0x40]

/-- Glyphs 8 to F of R33. -/
def fontHigh : List Byte :=
  [0xF0, 0x90, 0xF0, 0x90, 0xF0,
   0xF0, 0x90, 0xF0, 0x10, 0xF0,
   0xF0, 0x90, 0xF0, 0x90, 0x90,
   0xE0, 0x90, 0xE0, 0x90, 0xE0,
   0xF0, 0x80, 0x80, 0x80, 0xF0,
   0xE0, 0x90, 0x90, 0x90, 0xE0,
   0xF0, 0x80, 0xF0, 0x80, 0xF0,
   0xF0, 0x80, 0xF0, 0x80, 0x80]

/-- `FONT_TABLE` (R6, R33). -/
def fontTable : List Byte := fontLow ++ fontHigh

/-- `GLYPH_STRIDE` (R6, R33). -/
def glyphStride : Nat := 5

/-- The contents of an address right after a reset, before the image is laid over it (R37, R52): the font table at
`FONT_BASE`, 0 elsewhere. -/
def resetByte (a : Nat) : Byte :=
  if Config.fontBase ≤ a then fontTable.getD (a - Config.fontBase) 0 else 0

/-- The address of the glyph of a hex digit, `FONT_BASE + GLYPH_STRIDE * d` (R135). -/
def glyphAddress (d : Fin 16) : Word := BitVec.ofNat 16 (Config.fontBase + glyphStride * d.val)

end Sys2Proof.Machine
end

