-- ==== Sys2Proof/Machine/State.lean ====
section
/-! DEFINITION. The state of the machine: every piece that spec/10_state.md R20 to R34 lists (R36: "all the state there is"),
and two fields of the model's own that stand for inputs of the step (R35): the host's event schedule and the count of
random draws. Plain data throughout. -/

namespace Sys2Proof.Machine

/-- The sub-kinds of a stack fault (R163). -/
inductive StackFault where
  /-- `CALL` with 16 frames in use (R101). -/
  | overflow
  /-- `RET` with none (R102). -/
  | underflow
  deriving DecidableEq, Repr

/-- A fault as the register `FAULT` records it (R34, R163). Recording one is a NEXT state of the machine: the spec describes
the entry (R166, R167), so it is no stop of the model. -/
inductive FaultRecord where
  /-- Code 1, `DecodeError(w)`: the fetched word matches no row of R75. Recorded by the step (R161 part 5). -/
  | decodeError (w : Word)
  /-- Code 2, `StackError`: recorded by `CALL` and `RET` (R101, R102). -/
  | stackError (kind : StackFault)
  /-- Code 3, `MemoryBoundsError(a)`: `a` is the first address of the access that lies outside memory (R53). Recorded by the
  fetch and by `DRW`, `LD B,Vx`, `LD [I],Vx`, `LD Vx,[I]`. -/
  | memoryBounds (a : Nat)
  deriving DecidableEq, Repr

/-- An event the host issues (R160). -/
inductive Event where
  /-- `Step`: one pulse of the step-enable input (R161). -/
  | step
  /-- `KeyPress(k)` (R153). -/
  | keyPress (k : Key)
  /-- `KeyRelease(k)` (R154). -/
  | keyRelease (k : Key)
  /-- `Reset(IMAGE)` (R190). -/
  | reset (image : List Byte)
  deriving DecidableEq, Repr

/-- The frame buffer: 32 rows of 64 pixels (R31). -/
abbrev FrameBuffer := Vector (Vector Bool 64) 32

/-- Memory as the cells that differ from their reset contents, in one canonical form (`Memory.wf` of Ops.lean): addresses
strictly rising, each below 4096, no cell equal to what an unlisted address reads as (R32, R37; assumption log 2). -/
abbrev Memory := List Host.Cell

/-- The machine. -/
structure State where
  /-- `V[0]`..`V[15]` (R20). -/
  v : Vector Byte 16
  /-- `I`, the address register (R23). -/
  i : Word
  /-- `PC` (R24). -/
  pc : Word
  /-- `STACK[0]`..`STACK[15]` (R26). -/
  stack : Vector Word 16
  /-- `SP`, the number of frames in use, 0..16 (R26). -/
  sp : Fin 17
  /-- `DT`, the delay timer (R27). -/
  dt : Byte
  /-- `ST`, the sound timer (R28). -/
  st : Byte
  /-- `KEY[0]`..`KEY[15]` (R29). -/
  key : Vector Bool 16
  /-- `WAIT`, the key-wait latch (R30): `none`, or the register awaiting a key. -/
  wait : Option Reg
  /-- `FB` (R31). -/
  fb : FrameBuffer
  /-- `MEM[0]`..`MEM[4095]` (R32). -/
  mem : Memory
  /-- `FAULT` (R34). -/
  fault : Option FaultRecord
  /-- The model's own field: the events the host issues next, the first first; an empty schedule means `Step` events
  (R7, R35, R160; assumption log 4). -/
  hostSchedule : List Event
  /-- The model's own field: the number of random bytes drawn so far (R35, R140; assumption log 3). -/
  draws : Nat
  deriving DecidableEq, Repr

/-- The reasons to stop with a fault: there are none. Every fault of the spec is a recorded value of `FAULT` in a next state
(R163, R167), and the taxonomy is closed, so no instruction and no event stops the model. Assumption log 6 (safe). -/
inductive Fault where
  deriving DecidableEq, Repr

/-- The reasons to refuse. -/
inductive Refusal where
  /-- An instruction without a meaning yet; raised by an arm of `exec` only. Safe: nothing is claimed of it. No arm raises it. -/
  | notModelled (mnemonic : String)
  /-- `Reset(IMAGE)` with an image of more than 3584 bytes (R191: "A rejected reset constructs nothing: there is then no core
  state at all, and no `Step` can follow it"). Raised by the `reset` event; `len` is the image's length. Safe:
  the spec gives no state after it. -/
  | imageTooLarge (len : Nat)
  deriving DecidableEq, Repr

/-- What a step, an event or an instruction answers. -/
abbrev StepResult := Host.Outcome State Fault Refusal

/-- The machine right after `Reset` of the empty image (R37, R190): every entry of the table of R37, and the model's own fields
at their log entries' values (3, 4). Memory lists nothing: an unlisted address reads as its reset contents. -/
def State.reset : State where
  v := Vector.replicate 16 0#8
  i := 0#16
  pc := 0x200#16
  stack := Vector.replicate 16 0#16
  sp := 0
  dt := 0#8
  st := 0#8
  key := Vector.replicate 16 false
  wait := none
  fb := Vector.replicate 32 (Vector.replicate 64 false)
  mem := []
  fault := none
  hostSchedule := []
  draws := 0

end Sys2Proof.Machine
end

