-- ==== Sys2Proof/Machine/Ops.lean ====
section
/-! DEFINITION. The named operations over memory and state: the access primitives and their bounds check
(spec/20_memory.md R53), the fetch (R55), one update per field of the state, recording a fault (R166, R167), the timer
decrement (R177), the key events (R153, R154), and reset (R190), which is the only way out of a fault (R168). -/

namespace Sys2Proof.Machine

/-! ### Memory -/

/-- `MEM[a]` (R32): the listed byte, or the reset contents of an unlisted address. -/
def Memory.byteAt : Memory → Nat → Byte
  | [], a => resetByte a
  | (b, u) :: rest, a => if a = b then u else Memory.byteAt rest a

/-- A cell in front of the rest, left out where it holds what an unlisted address reads as. -/
def Memory.consCell (a : Nat) (u : Byte) (rest : Memory) : Memory :=
  if u = resetByte a then rest else (a, u) :: rest

/-- `MEM[a] <- u`, keeping the canonical form. -/
def Memory.write : Memory → Nat → Byte → Memory
  | [], a, u => Memory.consCell a u []
  | (b, w) :: rest, a, u =>
    if a < b then Memory.consCell a u ((b, w) :: rest)
    else if a = b then Memory.consCell a u rest
    else (b, w) :: Memory.write rest a u

/-- Every cell lies at `lo` or above, below 4096, in strictly rising order, and differs from the reset contents. -/
def Memory.wfFrom : Nat → Memory → Bool
  | _, [] => true
  | lo, (a, u) :: rest =>
    decide (lo ≤ a) && decide (a < Config.memSize) && decide (u ≠ resetByte a) && Memory.wfFrom (a + 1) rest

/-- The canonical form of memory. -/
def Memory.wf (m : Memory) : Bool := Memory.wfFrom 0 m

/-- `MEM[addr], MEM[addr+1], ...`, `n` bytes in ascending order (R56). -/
def Memory.bytes (m : Memory) (addr : Nat) : Nat → List Byte
  | 0 => []
  | n + 1 => m.byteAt addr :: Memory.bytes m (addr + 1) n

/-- `bytes[0]` to `MEM[addr]`, `bytes[1]` to `MEM[addr+1]`, and so on (R53). -/
def Memory.store (m : Memory) (addr : Nat) : List Byte → Memory
  | [] => m
  | u :: rest => Memory.store (m.write addr u) (addr + 1) rest

/-- The bounds check of R53: `n = 0` passes, else `addr + n - 1 <= 4095`; no wrap-around (R54, decision D17). -/
def inBounds (addr n : Nat) : Bool := decide (n = 0) || decide (addr + n ≤ Config.memSize)

/-- What a failed bounds check records, `max(addr, 4096)` (R53, decision D19). -/
def boundsFault (addr : Nat) : FaultRecord := .memoryBounds (max addr Config.memSize)

/-- `MemRead(addr, n)` (R53). -/
def memRead (m : Memory) (addr n : Nat) : Except FaultRecord (List Byte) :=
  if inBounds addr n then .ok (m.bytes addr n) else .error (boundsFault addr)

/-- `MemWrite(addr, n, bytes)` with `n` the number of bytes (R53): the whole range is checked before the first byte moves. -/
def memWrite (m : Memory) (addr : Nat) (bytes : List Byte) : Except FaultRecord Memory :=
  if inBounds addr bytes.length then .ok (m.store addr bytes) else .error (boundsFault addr)

/-- The fetch of R161 part 4: the two bytes at `PC`, the first high (R55), or the bounds fault of R164. -/
def fetchWord (m : Memory) (pc : Nat) : Except FaultRecord Word :=
  if pc + 1 < Config.memSize then .ok (wordOfBytes (m.byteAt pc) (m.byteAt (pc + 1))) else .error (boundsFault pc)

/-! ### Registers and the other fields, one update each -/

/-- `VF`, the flag register `V[15]` (R22). -/
def flagReg : Reg := 15

/-- Read `V[r]` (R20). -/
def State.reg (s : State) (r : Reg) : Byte := s.v[r.val]

/-- `V[r] <- u` (R20); all 16 registers are writable. -/
def State.setReg (s : State) (r : Reg) (u : Byte) : State := { s with v := s.v.set r.val u r.isLt }

/-- `V[15] <- f` for a flag value (R22). -/
def State.setFlag (s : State) (f : Byte) : State := s.setReg flagReg f

/-- `V[k] <- b[k]` for the bytes of a list, from register `k` upward (R133); bytes past register 15 have no place. -/
def State.setRegsFrom (s : State) (k : Nat) : List Byte → State
  | [] => s
  | u :: rest => if h : k < 16 then (s.setReg ⟨k, h⟩ u).setRegsFrom (k + 1) rest else s

/-- `I <- a` (R23). -/
def State.setI (s : State) (a : Word) : State := { s with i := a }

/-- `PC <- target` (R11, R24). -/
def State.setPc (s : State) (target : Word) : State := { s with pc := target }

/-- `PC <- PC + 2`, the sequential way (R24). -/
def State.advance (s : State) : State := s.setPc (s.pc + 2#16)

/-- `PC <- PC + 4` if the condition holds, else `PC <- PC + 2`, the skip way (R24). -/
def State.skipIf (s : State) (c : Bool) : State := s.setPc (if c then s.pc + 4#16 else s.pc + 2#16)

/-- `DT <- u` (R27). -/
def State.setDt (s : State) (u : Byte) : State := { s with dt := u }

/-- `ST <- u` (R28). -/
def State.setSt (s : State) (u : Byte) : State := { s with st := u }

/-- `KEY[k] <- held` (R29). -/
def State.setKey (s : State) (k : Key) (held : Bool) : State := { s with key := s.key.set k.val held k.isLt }

/-- `WAIT <- w` (R30). -/
def State.setWait (s : State) (w : Option Reg) : State := { s with wait := w }

/-- `FB <- f` (R31). -/
def State.setFb (s : State) (f : FrameBuffer) : State := { s with fb := f }

/-- `MEM <- m` (R32). -/
def State.setMem (s : State) (m : Memory) : State := { s with mem := m }

/-- `STACK[SP] <- ret`, then `SP <- SP + 1` (R26, R101). -/
def State.pushFrame (s : State) (ret : Word) (h : s.sp.val < 16) : State :=
  { s with stack := s.stack.set s.sp.val ret h, sp := ⟨s.sp.val + 1, by omega⟩ }

/-- `STACK[SP - 1]`, the newest frame (R26, R102). -/
def State.topFrame (s : State) (h : 0 < s.sp.val) : Word := s.stack[s.sp.val - 1]'(by omega)

/-- `SP <- SP - 1`; the slot keeps its value (R26, R102). -/
def State.dropFrame (s : State) : State := { s with sp := ⟨s.sp.val - 1, by omega⟩ }

/-- The byte of the next random draw (R140). -/
def State.nextDraw (s : State) : Byte := Config.randomByte s.draws

/-- One draw is consumed (R140). -/
def State.countDraw (s : State) : State := { s with draws := s.draws + 1 }

/-! ### Faults (R163 to R168): taking one is recording it; there is no return from one but reset -/

/-- `FAULT <- f` (R161 parts 4 to 6): nothing else changes, so `PC` keeps the address of the faulting instruction (R166). -/
def State.recordFault (s : State) (f : FaultRecord) : State := { s with fault := some f }

/-- Taking a fault: the one shared way every fault of the machine is taken. The next state records it (R166, R167). -/
def takeFault (f : FaultRecord) (s : State) : StepResult := .next (s.recordFault f)

/-- The codes of R163 (decision D19); code 0 means no fault. -/
def faultCode : Option FaultRecord → Nat
  | none => 0
  | some (.decodeError _) => 1
  | some (.stackError _) => 2
  | some (.memoryBounds _) => 3

/-! ### Timers -/

/-- The guarded decrement of one timer: 0 stays 0 (R177). -/
def tick (t : Byte) : Byte := if t = 0#8 then 0#8 else t - 1#8

/-- Part 2 of the step: both timers (R161, R177; the sound timer by conflict C1, decision D20). -/
def State.tickTimers (s : State) : State := { s with dt := tick s.dt, st := tick s.st }

/-! ### The host's events -/

/-- The event the host issues next; an empty schedule means `Step` (assumption log 4). -/
def State.nextEvent (s : State) : Event :=
  match s.hostSchedule with
  | [] => .step
  | e :: _ => e

/-- The schedule without the event just issued. -/
def State.consumeEvent (s : State) : State := { s with hostSchedule := s.hostSchedule.tail }

/-- `KeyPress(k)` (R153): the key is held, and a pending wait gets the key's number and ends. -/
def State.keyPress (s : State) (k : Key) : State :=
  match s.wait with
  | none => s.setKey k true
  | some r => ((s.setKey k true).setReg r (zext8 k)).setWait none

/-- `KeyRelease(k)` (R154): the key is not held; it resolves no wait. -/
def State.keyRelease (s : State) (k : Key) : State := s.setKey k false

/-! ### Reset -/

/-- The cells of an image laid from address `a` upward, in canonical form (R190). -/
def imageCells (a : Nat) : List Byte → Memory
  | [] => []
  | u :: rest => Memory.consCell a u (imageCells (a + 1) rest)

/-- Every piece of state at its value of R37, the image at 0x200. The host's schedule and the count of draws are not the core's
and go on (assumption log 5). -/
def State.resetWith (s : State) (image : List Byte) : State :=
  { State.reset with mem := imageCells Config.progBase image, hostSchedule := s.hostSchedule, draws := s.draws }

/-- `Reset(IMAGE)` (R190): accepted when the image fits (R191), else refused, and there is no core state. -/
def resetEvent (image : List Byte) (s : State) : StepResult :=
  if imageFits image then .next (s.resetWith image) else .refused (.imageTooLarge image.length)

/-! ### What the host sees (R180) -/

/-- The host-readable outputs: the frame snapshot, the sound timer and the fault report (R148, R180). -/
structure Outputs where
  frame : FrameBuffer
  sound : Byte
  report : Option FaultRecord
  deriving DecidableEq, Repr

/-- Reading the outputs between events; it is a function of the state and changes nothing (R180). -/
def State.outputs (s : State) : Outputs := ⟨s.fb, s.st, s.fault⟩

end Sys2Proof.Machine
end

