-- ==== Sys2Proof/Machine/Operands.lean ====
section
/-! DEFINITION. The operand forms of the 34 operations (spec/30_encoding.md R72, R73): a register's low nibble, a sprite's start
coordinates, a block of registers, the decimal digits of a register, a masked draw, a jump with an offset. -/

namespace Sys2Proof.Machine

/-- `u[3:0]`, the hex digit or key number a register holds (R135, R150; decisions D13, D14). -/
def lowNibble (u : Byte) : Fin 16 := (u.extractLsb' 0 4).toFin

/-- `KEY[k]` for the key number in `V[x]` (R150, R151). -/
def State.keyOf (s : State) (x : Reg) : Bool := s.key[(lowNibble (s.reg x)).val]

/-- The start column of a sprite, `V[x] mod 64` (R145). -/
def startCol (u : Byte) : Fin 64 := ⟨u.toNat % 64, Nat.mod_lt _ (by decide)⟩

/-- The start row of a sprite, `V[y] mod 32` (R145). -/
def startRow (u : Byte) : Fin 32 := ⟨u.toNat % 32, Nat.mod_lt _ (by decide)⟩

/-- The block `[V[0], ..., V[x]]`, the upper bound included (R132). -/
def State.regBlock (s : State) (x : Reg) : List Byte := s.v.toList.take (x.val + 1)

/-- The hundreds, tens and ones digits of a register's value (R134). -/
def bcdDigits (u : Byte) : List Byte :=
  [BitVec.ofNat 8 (u.toNat / 100), BitVec.ofNat 8 (u.toNat / 10 % 10), BitVec.ofNat 8 (u.toNat % 10)]

/-- The data address a memory instruction starts at: `I`, as a number that does not wrap (R54). -/
def State.dataAddr (s : State) : Nat := s.i.toNat

/-- The register whose value `JP V0,nnn` adds (R107, decision D10). -/
def jumpOffsetReg : Reg := 0

end Sys2Proof.Machine
end

