-- ==== Sys2Proof/Machine/AddressMemory.lean ====
section
/-! DEFINITION. Address-register and memory instructions (spec/42_memory_address.md R130 to R135). One addressing mode: `I` plus an
element index, with no change of `I` (decision D12). -/

namespace Sys2Proof.Machine

/-- The shared ending of a store: `MemWrite` at `I`, then `PC <- PC + 2`, or the bounds fault (R53). -/
def storeAtI (bytes : List Byte) (s : State) : StepResult :=
  match memWrite s.mem s.dataAddr bytes with
  | .ok m => .next (s.setMem m).advance
  | .error f => takeFault f s

/-- `LD I, nnn` (R130). -/
def execLdI (nnn : Imm12) (s : State) : StepResult := .next (s.setI (zextImm nnn)).advance

/-- `ADD I, Vx` (R131): 16-bit wrap, no flag (decision D11). -/
def execAddI (x : Reg) (s : State) : StepResult := .next (s.setI (s.i + zext16 (s.reg x))).advance

/-- `LD F, Vx` (R135): the glyph of the low nibble (decisions D13, D16). -/
def execLdF (x : Reg) (s : State) : StepResult := .next (s.setI (glyphAddress (lowNibble (s.reg x)))).advance

/-- `LD B, Vx` (R134). -/
def execLdB (x : Reg) (s : State) : StepResult := storeAtI (bcdDigits (s.reg x)) s

/-- `LD [I], Vx` (R132): `MEM[I + k] <- V[k]` for `k = 0..x`. -/
def execLdMemVx (x : Reg) (s : State) : StepResult := storeAtI (s.regBlock x) s

/-- `LD Vx, [I]` (R133): `V[k] <- MEM[I + k]` for `k = 0..x`. -/
def execLdVxMem (x : Reg) (s : State) : StepResult :=
  match memRead s.mem s.dataAddr (x.val + 1) with
  | .ok bytes => .next (s.setRegsFrom 0 bytes).advance
  | .error f => takeFault f s

end Sys2Proof.Machine
end

