-- ==== Sys2Proof/Machine/Flags.lean ====
section
/-! DEFINITION. Every flag the spec defines (spec/10_state.md R22): six instructions write 0 or 1 to `V[15]`. -/

namespace Sys2Proof.Machine

/-- A flag value, 1 or 0. -/
def flagOf (c : Bool) : Byte := if c then 1#8 else 0#8

/-- `ADD Vx,Vy`: 1 if the true sum is above 255 (R117). -/
def carryFlag (a b : Byte) : Byte := flagOf (decide (255 < a.toNat + b.toNat))

/-- `SUB` and `SUBN`: 1 if the minuend is at least the subtrahend, that is no borrow (R118, R121). -/
def noBorrowFlag (minuend subtrahend : Byte) : Byte := flagOf (decide (subtrahend.toNat ≤ minuend.toNat))

/-- `SHR`: the bit shifted out, bit 0 (R120). -/
def shrFlag (a : Byte) : Byte := flagOf (a.getLsbD 0)

/-- `SHL`: the bit shifted out, bit 7 (R119). -/
def shlFlag (a : Byte) : Byte := flagOf (a.getLsbD 7)

/-- `DRW`: 1 if any pixel went from set to unset (R145). -/
def collisionFlag (c : Bool) : Byte := flagOf c

end Sys2Proof.Machine
end

