-- ==== Sys2Proof/Machine/Alu.lean ====
section
/-! DEFINITION. Register load, arithmetic, logic and shift instructions (spec/41_register_alu.md R110 to R122). Operands are read
before any write; the flag is written first and the result second, so a result in `V[15]` remains (R12, R110, decision D6). -/

namespace Sys2Proof.Machine

/-- The shared ending of the five flag-writing instructions: `V[15] <- flag`, `V[x] <- result`, `PC <- PC + 2` (R110). -/
def flagThenResult (x : Reg) (flag result : Byte) (s : State) : StepResult :=
  .next ((s.setFlag flag).setReg x result).advance

/-- `V[x] <- result`, `PC <- PC + 2`: the shared ending of the flagless instructions. -/
def resultOnly (x : Reg) (result : Byte) (s : State) : StepResult := .next (s.setReg x result).advance

/-- `LD Vx, kk` (R111). -/
def execLdImm (x : Reg) (kk : Byte) (s : State) : StepResult := resultOnly x kk s

/-- `ADD Vx, kk` (R112): wraps, writes no flag (decision D9). -/
def execAddImm (x : Reg) (kk : Byte) (s : State) : StepResult := resultOnly x (s.reg x + kk) s

/-- `LD Vx, Vy` (R113). -/
def execLdReg (x y : Reg) (s : State) : StepResult := resultOnly x (s.reg y) s

/-- `OR Vx, Vy` (R114); `V[15]` unchanged (decision D8). -/
def execOrReg (x y : Reg) (s : State) : StepResult := resultOnly x (s.reg x ||| s.reg y) s

/-- `AND Vx, Vy` (R115); `V[15]` unchanged (decision D8). -/
def execAndReg (x y : Reg) (s : State) : StepResult := resultOnly x (s.reg x &&& s.reg y) s

/-- `XOR Vx, Vy` (R116); `V[15]` unchanged (decision D8). -/
def execXorReg (x y : Reg) (s : State) : StepResult := resultOnly x (s.reg x ^^^ s.reg y) s

/-- `ADD Vx, Vy` (R117). -/
def execAddReg (x y : Reg) (s : State) : StepResult :=
  flagThenResult x (carryFlag (s.reg x) (s.reg y)) (s.reg x + s.reg y) s

/-- `SUB Vx, Vy` (R118): the minuend is `V[x]`. -/
def execSub (x y : Reg) (s : State) : StepResult :=
  flagThenResult x (noBorrowFlag (s.reg x) (s.reg y)) (s.reg x - s.reg y) s

/-- `SHR Vx` (R120): `V[x]` in place; `y` is not used (decision D7). -/
def execShr (x _y : Reg) (s : State) : StepResult := flagThenResult x (shrFlag (s.reg x)) (s.reg x >>> 1) s

/-- `SUBN Vx, Vy` (R121): the minuend is `V[y]`, the destination `V[x]`. -/
def execSubn (x y : Reg) (s : State) : StepResult :=
  flagThenResult x (noBorrowFlag (s.reg y) (s.reg x)) (s.reg y - s.reg x) s

/-- `SHL Vx` (R119): `V[x]` in place; `y` is not used (decision D7). -/
def execShl (x _y : Reg) (s : State) : StepResult := flagThenResult x (shlFlag (s.reg x)) (s.reg x <<< 1) s

end Sys2Proof.Machine
end

