-- ==== Sys2Proof/Machine/ControlFlow.lean ====
section
/-! DEFINITION. The control-flow instructions (spec/40_control_flow.md R100 to R107). In every meaning of the machine `pc` on the right
is the address of the instruction being executed, and the new `pc` is what part 7 of the step writes (R24, R161). -/

namespace Sys2Proof.Machine

/-- `JP nnn` (R100). -/
def execJp (nnn : Imm12) (s : State) : StepResult := .next (s.setPc (zextImm nnn))

/-- `CALL nnn` (R101): overflow with 16 frames in use, else push `PC + 2` and jump. -/
def execCall (nnn : Imm12) (s : State) : StepResult :=
  if h : s.sp.val < 16 then .next ((s.pushFrame (s.pc + 2#16) h).setPc (zextImm nnn))
  else takeFault (.stackError .overflow) s

/-- `RET` (R102): underflow with no frame, else pop the return address into `PC`. -/
def execRet (s : State) : StepResult :=
  if h : 0 < s.sp.val then .next (s.dropFrame.setPc (s.topFrame h))
  else takeFault (.stackError .underflow) s

/-- `SE Vx, kk` (R103). -/
def execSeImm (x : Reg) (kk : Byte) (s : State) : StepResult := .next (s.skipIf (s.reg x == kk))

/-- `SNE Vx, kk` (R104). -/
def execSneImm (x : Reg) (kk : Byte) (s : State) : StepResult := .next (s.skipIf (s.reg x != kk))

/-- `SE Vx, Vy` (R105). -/
def execSeReg (x y : Reg) (s : State) : StepResult := .next (s.skipIf (s.reg x == s.reg y))

/-- `SNE Vx, Vy` (R106). -/
def execSneReg (x y : Reg) (s : State) : StepResult := .next (s.skipIf (s.reg x != s.reg y))

/-- `JP V0, nnn` (R107): the sum is kept on 16 bits and not reduced modulo 4096. -/
def execJpV0 (nnn : Imm12) (s : State) : StepResult := .next (s.setPc (zextImm nnn + zext16 (s.reg jumpOffsetReg)))

end Sys2Proof.Machine
end

