-- ==== Sys2Proof/Machine/Blitter.lean ====
section
/-! DEFINITION. The blitter (spec/44_display.md R147): XOR drawing with wrap-around and a collision bit, pixel by pixel in the
order of the spec's two loops. -/

namespace Sys2Proof.Machine

/-- `FB[row][col]` (R31). -/
def FrameBuffer.pixel (f : FrameBuffer) (row : Fin 32) (col : Fin 64) : Bool := f[row.val][col.val]

/-- `FB[row][col] <- FB[row][col] XOR 1` (R147). -/
def FrameBuffer.toggle (f : FrameBuffer) (row : Fin 32) (col : Fin 64) : FrameBuffer :=
  f.set row.val (f[row.val].set col.val (!(f.pixel row col)) col.isLt) row.isLt

/-- The frame with every pixel unset (R146). -/
def FrameBuffer.clear : FrameBuffer := Vector.replicate 32 (Vector.replicate 64 false)

/-- The pixel `c` columns right of the start, wrapping at 64 (R147). -/
def wrapCol (col0 : Fin 64) (c : Nat) : Fin 64 := ⟨(col0.val + c) % 64, Nat.mod_lt _ (by decide)⟩

/-- The pixel `r` rows below the start, wrapping at 32 (R147). -/
def wrapRow (row0 : Fin 32) (r : Nat) : Fin 32 := ⟨(row0.val + r) % 32, Nat.mod_lt _ (by decide)⟩

/-- Bit `7 - c` of a sprite byte: bit 7 is the leftmost pixel (R147, decision D15). -/
def spriteBit (row : Byte) (c : Nat) : Bool := row.getLsbD (7 - c)

/-- The loop's body: a 1 bit toggles its pixel and notes a pixel that was set; a 0 bit leaves it alone (R147). -/
def blitPixel (bit : Bool) (row : Fin 32) (col : Fin 64) (acc : FrameBuffer × Bool) : FrameBuffer × Bool :=
  if bit then (acc.1.toggle row col, acc.2 || acc.1.pixel row col) else acc

/-- The inner loop, one sprite byte. -/
def blitRow (col0 : Fin 64) (row : Fin 32) (u : Byte) (acc : FrameBuffer × Bool) : FrameBuffer × Bool :=
  [0, 1, 2, 3, 4, 5, 6, 7].foldl (fun acc c => blitPixel (spriteBit u c) row (wrapCol col0 c) acc) acc

/-- The outer loop over the rows of the sprite, from row `r` on. -/
def blitRows (col0 : Fin 64) (row0 : Fin 32) : Nat → List Byte → FrameBuffer × Bool → FrameBuffer × Bool
  | _, [], acc => acc
  | r, u :: rest, acc => blitRows col0 row0 (r + 1) rest (blitRow col0 (wrapRow row0 r) u acc)

/-- `Blit(col0, row0, rows)` (R147): the new frame and the collision bit. -/
def blit (col0 : Fin 64) (row0 : Fin 32) (rows : List Byte) (f : FrameBuffer) : FrameBuffer × Bool :=
  blitRows col0 row0 0 rows (f, false)

end Sys2Proof.Machine
end

