-- ==== Sys2Proof/Machine/Display.lean ====
section
/-! DEFINITION. The frame-buffer instructions (spec/44_display.md R145, R146). -/

namespace Sys2Proof.Machine

/-- `CLS` (R146); `V[15]` is not written. -/
def execCls (s : State) : StepResult := .next (s.setFb FrameBuffer.clear).advance

/-- `DRW Vx, Vy, n` (R145): the sprite is fetched and checked before the first pixel is written; coordinates are read before
`V[15]` is written (R12). -/
def execDrw (x y : Reg) (n : RowCount) (s : State) : StepResult :=
  match memRead s.mem s.dataAddr n.val with
  | .ok rows =>
    let drawn := blit (startCol (s.reg x)) (startRow (s.reg y)) rows s.fb
    .next ((s.setFb drawn.1).setFlag (collisionFlag drawn.2)).advance
  | .error f => takeFault f s

end Sys2Proof.Machine
end

