-- ==== Sys2Proof/Machine/Keypad.lean ====
section
/-! DEFINITION. The keypad instructions (spec/45_keypad.md R150 to R152). -/

namespace Sys2Proof.Machine

/-- `SKP Vx` (R150). -/
def execSkp (x : Reg) (s : State) : StepResult := .next (s.skipIf (s.keyOf x))

/-- `SKNP Vx` (R151). -/
def execSknp (x : Reg) (s : State) : StepResult := .next (s.skipIf (!(s.keyOf x)))

/-- `LD Vx, K` (R152): the wait begins; `V[x]` is written by the key press that ends it (R153). -/
def execLdVxK (x : Reg) (s : State) : StepResult := .next (s.setWait (some x)).advance

end Sys2Proof.Machine
end

