-- ==== Sys2Proof/Machine/Random.lean ====
section
/-! DEFINITION. The random-number instruction (spec/43_random.md R140). -/

namespace Sys2Proof.Machine

/-- `RND Vx, kk` (R140): a free byte masked with `kk`; one draw is consumed. -/
def execRnd (x : Reg) (kk : Byte) (s : State) : StepResult :=
  .next ((s.countDraw.setReg x (s.nextDraw &&& kk)).advance)

end Sys2Proof.Machine
end

