-- ==== Sys2Proof/Machine/Timers.lean ====
section
/-! DEFINITION. The timer instructions (spec/46_timers.md R157 to R159). The decrement is the step's (R161 part 2) and comes first. -/

namespace Sys2Proof.Machine

/-- `LD Vx, DT` (R157). -/
def execLdVxDT (x : Reg) (s : State) : StepResult := .next (s.setReg x s.dt).advance

/-- `LD DT, Vx` (R158). -/
def execLdDTVx (x : Reg) (s : State) : StepResult := .next (s.setDt (s.reg x)).advance

/-- `LD ST, Vx` (R159). -/
def execLdSTVx (x : Reg) (s : State) : StepResult := .next (s.setSt (s.reg x)).advance

end Sys2Proof.Machine
end

