-- ==== Sys2Proof/Machine/Sequencer.lean ====
section
/-! DEFINITION. The step sequencer (spec/60_exceptions.md R161) and the handling of the host's events (R160). -/

namespace Sys2Proof.Machine

/-- Parts 4 to 7 of `Step` (R161): fetch, decode, execute, each with its fault. -/
def fetchDecodeExecute (s : State) : StepResult :=
  match fetchWord s.mem s.pc.toNat with
  | .error f => takeFault f s
  | .ok w =>
    match decodeWord w with
    | .error _ => takeFault (.decodeError w) s
    | .ok i => exec i s

/-- `Step` (R161): a faulted core does nothing (part 1); else the timers count (part 2); a core that waits for a key executes
nothing (part 3); else one instruction runs. -/
def stepEvent (s : State) : StepResult :=
  if s.fault.isSome then .next s
  else if s.tickTimers.wait.isSome then .next s.tickTimers
  else fetchDecodeExecute s.tickTimers

/-- One event of the host (R160). -/
def handleEvent (e : Event) (s : State) : StepResult :=
  match e with
  | .step => stepEvent s
  | .keyPress k => .next (s.keyPress k)
  | .keyRelease k => .next (s.keyRelease k)
  | .reset image => resetEvent image s

/-- Where a word is placed to be the next one fetched: at `PC` where two bytes fit there, else at the reset vector
(assumption log 22). -/
def placePc (s : State) : Word := if s.pc.toNat + 1 < Config.memSize then s.pc else 0x200#16

/-- The state whose next event is a `Step` that fetches the word `w`: the word's bytes stand at `PC` as R55 lays them, and nothing
holds the step back: no fault, no key wait, no other event first (assumption log 22). -/
def State.placeWord (s : State) (w : Word) : State :=
  { s with
    pc := placePc s, mem := s.mem.store (placePc s).toNat (bytesOfWord w), fault := none, wait := none, hostSchedule := [] }

end Sys2Proof.Machine
end

