-- ==== Sys2Proof/Machine/Step.lean ====
section
/-! DEFINITION. One step of the model: the next event of the host is handled (spec/60_exceptions.md R160, R161). -/

namespace Sys2Proof.Machine

/-- One step: the host's next event, `Step` when the schedule is empty (assumption log 4). -/
def step (s : State) : Host.Outcome State Fault Refusal := handleEvent s.nextEvent s.consumeEvent

/-- The word that spec/opcode_table.json numbers `w`, placed where the next step fetches. -/
def State.withFetchWord (s : State) (nbits w : Nat) : State := s.placeWord (tableWord nbits w)

end Sys2Proof.Machine
end

