-- ==== Sys2Proof/Safety.lean ====
section
/-! DEFINITION. The terms in which claims about the machine are made: what a transition leaves unchanged, which parts and registers
each operation may change (spec/10_state.md R21, R38), the invariant of the machine, and how a run ends
(spec/70_reset_and_hazards.md R199). -/

namespace Sys2Proof.Machine

/-! ### Frames -/

/-- The parts of the state (R36), and the model's own two. -/
inductive Part where
  | regs | i | pc | stack | sp | dt | st | key | wait | fb | mem | fault | hostSchedule | draws
  deriving DecidableEq, Repr

/-- The part is the same in two states. Registers are compared by reading each, memory by reading each byte. -/
def Part.same : Part → State → State → Prop
  | .regs, s, t => ∀ r, t.reg r = s.reg r
  | .i, s, t => t.i = s.i
  | .pc, s, t => t.pc = s.pc
  | .stack, s, t => t.stack = s.stack
  | .sp, s, t => t.sp = s.sp
  | .dt, s, t => t.dt = s.dt
  | .st, s, t => t.st = s.st
  | .key, s, t => t.key = s.key
  | .wait, s, t => t.wait = s.wait
  | .fb, s, t => ∀ row col, t.fb.pixel row col = s.fb.pixel row col
  | .mem, s, t => ∀ a, t.mem.byteAt a = s.mem.byteAt a
  | .fault, s, t => t.fault = s.fault
  | .hostSchedule, s, t => t.hostSchedule = s.hostSchedule
  | .draws, s, t => t.draws = s.draws

/-- Every part but the named ones is the same. -/
def State.keepsBut (changed : List Part) (s t : State) : Prop := ∀ p, p ∉ changed → p.same s t

/-- Every register but the named ones is the same. -/
def State.keepsRegsBut (dests : List Reg) (s t : State) : Prop := ∀ r, r ∉ dests → t.reg r = s.reg r

/-- Every byte of memory outside `n` bytes from `addr` is the same. -/
def State.keepsMemBut (addr n : Nat) (s t : State) : Prop :=
  ∀ a, a < addr ∨ addr + n ≤ a → t.mem.byteAt a = s.mem.byteAt a

/-- An instruction with one destination register and no flag has run: `V[x]` holds the value, every other register and every
other part but `PC` is the same, and `PC` is 2 further. -/
def State.hasResult (s : State) (x : Reg) (value : Byte) (t : State) : Prop :=
  t.reg x = value ∧ State.keepsRegsBut [x] s t ∧ State.keepsBut [.regs, .pc] s t ∧ t.pc = s.pc + 2#16

/-- A flag-writing instruction has run: `V[x]` holds the result, `V[15]` the flag unless `x` is 15 (R110), every other register and
every other part but `PC` is the same, and `PC` is 2 further. -/
def State.hasFlaggedResult (s : State) (x : Reg) (flag result : Nat) (t : State) : Prop :=
  (t.reg x).toNat = result ∧ (x ≠ 15 → (t.reg 15).toNat = flag) ∧ State.keepsRegsBut [x, 15] s t ∧
    State.keepsBut [.regs, .pc] s t ∧ t.pc = s.pc + 2#16

/-- The sprite of `DRW Vx, Vy, n` has a 1 bit on the pixel: row `r` of the sprite is `MEM[I + r]`, its bit `7 - c` lies `c`
columns right and `r` rows down of the start, both wrapping (R145, R147). -/
def State.spriteCovers (s : State) (x y : Reg) (n : RowCount) (row : Fin 32) (col : Fin 64) : Prop :=
  ∃ r c, r < n.val ∧ c < 8 ∧ row.val = ((s.reg y).toNat + r) % 32 ∧ col.val = ((s.reg x).toNat + c) % 64 ∧
    (s.mem.byteAt (s.i.toNat + r)).getLsbD (7 - c) = true

/-- The byte at an address after `n` bytes are stored at `I`: the stored byte inside the store, the old byte outside it. -/
def State.byteAfterStore (s : State) (n : Nat) (stored : Nat → Nat) (a : Nat) : Nat :=
  if s.dataAddr ≤ a ∧ a < s.dataAddr + n then stored (a - s.dataAddr) else (s.mem.byteAt a).toNat

/-- After a store of `n` bytes at `I` the next fetch, at `PC + 2`, reads memory as the store left it, the high byte first (R55, R64). -/
def State.nextFetchSeesStore (s : State) (n : Nat) (stored : Nat → Nat) (t : State) : Prop :=
  t.pc.toNat = s.pc.toNat + 2 ∧ ∃ w, fetchWord t.mem t.pc.toNat = .ok w ∧
    w.toNat = s.byteAfterStore n stored (s.pc.toNat + 2) * 256 + s.byteAfterStore n stored (s.pc.toNat + 3)

/-- A `Step` in this state executes the operation: no fault, no key wait, and the word at `PC` decodes to it (R161). -/
def State.executes (s : State) (i : Instr) : Prop :=
  s.fault = none ∧ s.wait = none ∧ ∃ w, fetchWord s.mem s.pc.toNat = .ok w ∧ decodeWord w = .ok i

/-- Two states that differ at most in stack slots not in use: those at index `SP` and above (R26). -/
def State.sameLive (s t : State) : Prop :=
  t = { s with stack := t.stack } ∧ ∀ k : Fin 16, k.val < s.sp.val → t.stack[k.val] = s.stack[k.val]

/-- The registers `V[0]`..`V[x]`, the destinations of `LD Vx,[I]` (R21). -/
def regsUpTo (x : Reg) : List Reg := (List.finRange 16).filter (fun r => r.val ≤ x.val)

end Sys2Proof.Machine

namespace Sys2Proof

open Machine

/-- The registers an operation may write (R21): its destination, `V[0]`..`V[x]` for the block load, and `V[15]` for the six
operations that write a flag (R22). -/
def Instr.destRegs : Instr → List Reg
  | .ldImm x _ | .addImm x _ | .ldReg x _ | .orReg x _ | .andReg x _ | .xorReg x _ | .rnd x _ | .ldVxDT x => [x]
  | .addReg x _ | .sub x _ | .shr x _ | .subn x _ | .shl x _ => [x, 15]
  | .drw _ _ _ => [15]
  | .ldVxMem x => regsUpTo x
  | .cls | .ret | .jp _ | .call _ | .seImm _ _ | .sneImm _ _ | .seReg _ _ | .sneReg _ _ | .ldI _ | .jpV0 _ | .skp _
  | .sknp _ | .ldVxK _ | .ldDTVx _ | .ldSTVx _ | .addI _ | .ldF _ | .ldB _ | .ldMemVx _ => []

/-- The parts of the state an operation may change (R21, R38). `FAULT` stands with the six that can fault (R163). -/
def Instr.changes : Instr → List Part
  | .cls => [.fb, .pc]
  | .ret => [.sp, .pc, .fault]
  | .call _ => [.stack, .sp, .pc, .fault]
  | .jp _ | .jpV0 _ | .seImm _ _ | .sneImm _ _ | .seReg _ _ | .sneReg _ _ | .skp _ | .sknp _ => [.pc]
  | .ldImm _ _ | .addImm _ _ | .ldReg _ _ | .orReg _ _ | .andReg _ _ | .xorReg _ _ | .addReg _ _ | .sub _ _ | .shr _ _
  | .subn _ _ | .shl _ _ | .ldVxDT _ => [.regs, .pc]
  | .rnd _ _ => [.regs, .pc, .draws]
  | .drw _ _ _ => [.fb, .regs, .pc, .fault]
  | .ldVxK _ => [.wait, .pc]
  | .ldDTVx _ => [.dt, .pc]
  | .ldSTVx _ => [.st, .pc]
  | .ldI _ | .addI _ | .ldF _ => [.i, .pc]
  | .ldB _ | .ldMemVx _ => [.mem, .pc, .fault]
  | .ldVxMem _ => [.regs, .pc, .fault]

/-- The operands and the state on which an operation records a fault, and which one (R163): `none` where it completes. -/
def Instr.faultOf (i : Instr) (s : State) : Option FaultRecord :=
  match i with
  | .call _ => if s.sp = 16 then some (.stackError .overflow) else none
  | .ret => if s.sp = 0 then some (.stackError .underflow) else none
  | .drw _ _ n =>
    if n.val ≠ 0 ∧ 4095 < s.i.toNat + n.val - 1 then some (.memoryBounds (max s.i.toNat 4096)) else none
  | .ldB _ => if 4095 < s.i.toNat + 2 then some (.memoryBounds (max s.i.toNat 4096)) else none
  | .ldMemVx x | .ldVxMem x =>
    if 4095 < s.i.toNat + x.val then some (.memoryBounds (max s.i.toNat 4096)) else none
  | .cls | .jp _ | .seImm _ _ | .sneImm _ _ | .seReg _ _ | .sneReg _ _ | .ldImm _ _ | .addImm _ _ | .ldReg _ _
  | .orReg _ _ | .andReg _ _ | .xorReg _ _ | .addReg _ _ | .sub _ _ | .shr _ _ | .subn _ _ | .shl _ _ | .ldI _ | .jpV0 _
  | .rnd _ _ | .skp _ | .sknp _ | .ldVxDT _ | .ldVxK _ | .ldDTVx _ | .ldSTVx _ | .addI _ | .ldF _ => none

end Sys2Proof

namespace Sys2Proof.Machine

/-! ### The invariant -/

/-- What the spec says a recorded fault holds (R53, R163): a word that does not decode, or the first address outside memory,
which a 16-bit base bounds. -/
def FaultRecord.wellRecorded : FaultRecord → Prop
  | .decodeError w => decodeWord w = .error (.unrecognised w)
  | .stackError _ => True
  | .memoryBounds a => 4096 ≤ a ∧ a ≤ 65535

/-- The invariant of the machine. -/
structure State.Inv (s : State) : Prop where
  /-- Memory is in its canonical form (assumption log 2). -/
  memory : s.mem.wf = true
  /-- "the largest value any rule can write to `PC` is 4095 + 255 = 4350" (R25). -/
  pcBound : s.pc.toNat ≤ 4350
  /-- A return address is at most 4096 (R101). -/
  stackBound : ∀ k : Fin 16, (s.stack[k.val]).toNat ≤ 4096
  /-- A faulted core waits for no key (R166). -/
  faultNoWait : s.fault ≠ none → s.wait = none
  /-- The recorded fault is one the rules record (R163). -/
  faultRecord : ∀ f, s.fault = some f → f.wellRecorded

/-! ### The end of a run (R199, decision D33) -/

/-- The run has ended successfully: unfaulted, not waiting, and the instruction at `PC` is a jump to `PC`. -/
def State.endedSuccessfully (s : State) : Prop :=
  s.fault = none ∧ s.wait = none ∧ s.pc.toNat ≤ 0xFFE ∧ fetchWord s.mem s.pc.toNat = .ok (0x1000#16 ||| s.pc)

/-- The run has ended in a fault. -/
def State.endedInFault (s : State) : Prop := s.fault ≠ none

/-- A safe state: no fault is recorded. -/
def State.safe (s : State) : Prop := s.fault = none

end Sys2Proof.Machine
end

