-- ==== Sys2Proof/Certificates/Slice0/Obligations.lean ====
section
/-! DEFINITION. The statements about the machine, for the provers. Each docstring names the rule of spec/ the statement rests on.
Where it rests on a decision the spec marks as its own (`D<n>` of spec/92_eei_decisions.md) or on a convention of the model,
the docstring says so and names the assumption log's entry. -/

open Sys2Proof Sys2Proof.Machine

/-! ### Decoding and encoding -/

/-- A few words of spec/95_test_vectors.md, at least one of each family (control flow, registers, address register and memory, random,
display, keypad, timers), and two words that do not decode, decode as the vectors say (R75, decision D2). -/
def Obligations.SampleWordsDecode : Prop :=
  decodeWord 0x00E0#16 = .ok .cls ∧ decodeWord 0x1ABC#16 = .ok (.jp 0xABC#12) ∧
  decodeWord 0x3A42#16 = .ok (.seImm 0xA 0x42#8) ∧ decodeWord 0x8AB5#16 = .ok (.sub 0xA 0xB) ∧
  decodeWord 0xCA42#16 = .ok (.rnd 0xA 0x42#8) ∧ decodeWord 0xDAB5#16 = .ok (.drw 0xA 0xB 5) ∧
  decodeWord 0x9AB0#16 = .ok (.sneReg 0xA 0xB) ∧ decodeWord 0xEAA1#16 = .ok (.sknp 0xA) ∧
  decodeWord 0xFA07#16 = .ok (.ldVxDT 0xA) ∧ decodeWord 0xFA15#16 = .ok (.ldDTVx 0xA) ∧
  decodeWord 0xFA18#16 = .ok (.ldSTVx 0xA) ∧ decodeWord 0xFA33#16 = .ok (.ldB 0xA) ∧
  decodeWord 0x0000#16 = .error (.unrecognised 0x0000#16) ∧ decodeWord 0x5AB1#16 = .error (.unrecognised 0x5AB1#16)

/-- Every pattern of R75, with every operand at every value in its place of R72, decodes to its operation with those operands
(patterns by decision D2, assumption log 23). The words are built from the pattern's digits, not by the encoder. -/
def Obligations.EveryPatternDecodesWithItsOperands : Prop :=
  ∀ (x y n : Fin 16) (kk : Byte) (nnn : Imm12),
    let X := x.val * 256
    let XY := x.val * 256 + y.val * 16
    let XKK := x.val * 256 + kk.toNat
    let NNN := nnn.toNat
    let dec := fun k : Nat => decodeWord (BitVec.ofNat 16 k)
    dec 0x00E0 = .ok .cls ∧ dec 0x00EE = .ok .ret ∧ dec (0x1000 + NNN) = .ok (.jp nnn) ∧
    dec (0x2000 + NNN) = .ok (.call nnn) ∧ dec (0x3000 + XKK) = .ok (.seImm x kk) ∧
    dec (0x4000 + XKK) = .ok (.sneImm x kk) ∧ dec (0x5000 + XY) = .ok (.seReg x y) ∧
    dec (0x6000 + XKK) = .ok (.ldImm x kk) ∧ dec (0x7000 + XKK) = .ok (.addImm x kk) ∧
    dec (0x8000 + XY) = .ok (.ldReg x y) ∧ dec (0x8001 + XY) = .ok (.orReg x y) ∧
    dec (0x8002 + XY) = .ok (.andReg x y) ∧ dec (0x8003 + XY) = .ok (.xorReg x y) ∧
    dec (0x8004 + XY) = .ok (.addReg x y) ∧ dec (0x8005 + XY) = .ok (.sub x y) ∧
    dec (0x8006 + XY) = .ok (.shr x y) ∧ dec (0x8007 + XY) = .ok (.subn x y) ∧
    dec (0x800E + XY) = .ok (.shl x y) ∧ dec (0x9000 + XY) = .ok (.sneReg x y) ∧
    dec (0xA000 + NNN) = .ok (.ldI nnn) ∧ dec (0xB000 + NNN) = .ok (.jpV0 nnn) ∧
    dec (0xC000 + XKK) = .ok (.rnd x kk) ∧ dec (0xD000 + XY + n.val) = .ok (.drw x y n) ∧
    dec (0xE09E + X) = .ok (.skp x) ∧ dec (0xE0A1 + X) = .ok (.sknp x) ∧ dec (0xF007 + X) = .ok (.ldVxDT x) ∧
    dec (0xF00A + X) = .ok (.ldVxK x) ∧ dec (0xF015 + X) = .ok (.ldDTVx x) ∧ dec (0xF018 + X) = .ok (.ldSTVx x) ∧
    dec (0xF01E + X) = .ok (.addI x) ∧ dec (0xF029 + X) = .ok (.ldF x) ∧ dec (0xF033 + X) = .ok (.ldB x) ∧
    dec (0xF055 + X) = .ok (.ldMemVx x) ∧ dec (0xF065 + X) = .ok (.ldVxMem x)

/-- R80: `Encode(op)` is `match OR` the placed operand fields, decoding an encoded operation gives it back, and encoding a decoded
word gives the word back. -/
def Obligations.EncodeAndDecodeAreInverse : Prop :=
  (∀ i : Instr, encode i = i.row.pattern ||| i.operandBits) ∧
  (∀ i : Instr, i.wellFormed = true → decodeWord (encode i) = .ok i) ∧
  (∀ (w : Word) (i : Instr), decodeWord w = .ok i → encode i = w)

/-- The dispatch of R74 and the match and mask table of R75 say the same of every word: a decoded word is selected by its
operation's row, a row that selects a word is the row of the operation it decodes to (so no two rows select one word), and a
decode failure names the word and is selected by no row (patterns by decision D2). -/
def Obligations.DispatchAgreesWithOpcodeMap : Prop :=
  ∀ w : Word,
    (∀ i, decodeWord w = .ok i → i.row ∈ opcodeMap ∧ i.row.selects w = true) ∧
    (∀ r ∈ opcodeMap, r.selects w = true → ∃ i, decodeWord w = .ok i ∧ i.row = r) ∧
    (∀ e, decodeWord w = .error e → e = .unrecognised w ∧ ∀ r ∈ opcodeMap, r.selects w = false)

/-- The decode failures are exactly the six classes of the table of R77 (strictness by decision D4, assumption log 23). -/
def Obligations.DecodeFailuresAreTheSixClasses : Prop :=
  ∀ w : Word,
    let op := w.toNat / 4096
    let n := w.toNat % 16
    let kk := w.toNat % 256
    decodeWord w = .error (.unrecognised w) ↔
      (op = 0x0 ∧ w ≠ 0x00E0#16 ∧ w ≠ 0x00EE#16) ∨
      (op = 0x5 ∧ n ≠ 0) ∨
      (op = 0x8 ∧ n ∈ [0x8, 0x9, 0xA, 0xB, 0xC, 0xD, 0xF]) ∨
      (op = 0x9 ∧ n ≠ 0) ∨
      (op = 0xE ∧ kk ∉ [0x9E, 0xA1]) ∨
      (op = 0xF ∧ kk ∉ [0x07, 0x0A, 0x15, 0x18, 0x1E, 0x29, 0x33, 0x55, 0x65])

/-! ### The step -/

/-- A `Step` of a core that is neither faulted nor waiting, whose `PC` has two bytes in memory that decode to an instruction, is
`exec` of that instruction with both timers counted down and the event taken off the schedule, and nothing else around it
(R161; parts by decisions D18 and D20; the schedule is the model's, assumption log 4). -/
def Obligations.StepRunsTheDecodedInstruction : Prop :=
  ∀ (s : State) (w : Word) (i : Instr),
    s.nextEvent = .step → s.fault = none → s.wait = none → s.pc.toNat + 1 ≤ 4095 →
    w.toNat = (s.mem.byteAt s.pc.toNat).toNat * 256 + (s.mem.byteAt (s.pc.toNat + 1)).toNat →
    decodeWord w = .ok i →
    step s = exec i { s with
      hostSchedule := s.hostSchedule.tail
      dt := if s.dt = 0#8 then 0#8 else s.dt - 1#8
      st := if s.st = 0#8 then 0#8 else s.st - 1#8 }

/-- A step whose `PC` is 4095 or more records `MemoryBoundsError(max(PC, 4096))` and changes nothing else but the timers (R164, R161
part 4; the recorded value by decision D19, assumption log 16). -/
def Obligations.FetchOutsideMemoryRecordsBoundsFault : Prop :=
  ∀ s : State, s.nextEvent = .step → s.fault = none → s.wait = none → 4095 ≤ s.pc.toNat →
    step s = .next { s.consumeEvent.tickTimers with fault := some (.memoryBounds (max s.pc.toNat 4096)) }

/-- A step whose fetched word matches no row records `DecodeError` of that word and changes nothing else but the timers, for every
undecodable word (R164, R77; what is recorded by decision D19, assumption log 16). -/
def Obligations.UndecodableWordRecordsDecodeFault : Prop :=
  ∀ (s : State) (w : Word), s.nextEvent = .step → s.fault = none → s.wait = none → s.pc.toNat + 1 ≤ 4095 →
    w.toNat = (s.mem.byteAt s.pc.toNat).toNat * 256 + (s.mem.byteAt (s.pc.toNat + 1)).toNat →
    (∀ i, decodeWord w ≠ .ok i) →
    step s = .next { s.consumeEvent.tickTimers with fault := some (.decodeError w) }

/-- Running into memory that holds two zero bytes faults with `DecodeError(0x0000)` (R79). -/
def Obligations.ZeroedMemoryDoesNotExecute : Prop :=
  ∀ s : State, s.nextEvent = .step → s.fault = none → s.wait = none → s.pc.toNat + 1 ≤ 4095 →
    s.mem.byteAt s.pc.toNat = 0#8 → s.mem.byteAt (s.pc.toNat + 1) = 0#8 →
    ∃ t, step s = .next t ∧ t.fault = some (.decodeError 0x0000#16) ∧ t.pc = s.pc ∧
      State.keepsBut [.fault, .dt, .st, .hostSchedule] s t

/-- While `FAULT` is set a `Step` changes nothing, the timers included, and every other event but a reset leaves `FAULT` and all but
the keys as they are: `FAULT` is sticky (R167; decisions D18, D29, assumption log 6). The state meets the invariant,
which rules out a faulted core that waits for a key. -/
def Obligations.FaultedCoreIsFrozenUntilReset : Prop :=
  ∀ (s : State) (f : FaultRecord), s.Inv → s.fault = some f → (∀ image, s.nextEvent ≠ .reset image) →
    ∃ t, step s = .next t ∧ t.fault = some f ∧ State.keepsBut [.key, .hostSchedule] s t ∧
      t.hostSchedule = s.hostSchedule.tail ∧ (s.nextEvent = .step → t = s.consumeEvent)

/-- A core that waits for a key stays in the wait however many steps come without a key press: each step lowers both timers by one
down to 0 and changes nothing else (R155, R183; the sound timer by decision D20). -/
def Obligations.KeyWaitOnlyCountsTimersDown : Prop :=
  ∀ (n : Nat) (s : State) (r : Reg), s.fault = none → s.wait = some r → s.hostSchedule = [] →
    core.run n s = .next { s with
      dt := BitVec.ofNat 8 (s.dt.toNat - n)
      st := BitVec.ofNat 8 (s.st.toNat - n) }

/-- In every step of an unfaulted core each timer is lowered by exactly 1, a timer at 0 stays 0, before the instruction executes: only
`LD DT,Vx` and `LD ST,Vx` leave another value, that of `V[x]` (R177, R27, R28; the sound timer by decision D20). -/
def Obligations.TimersCountOncePerStep : Prop :=
  ∀ s t : State, s.nextEvent = .step → s.fault = none → step s = .next t →
    ((∀ x, ¬ s.executes (.ldDTVx x)) → t.dt.toNat = s.dt.toNat - 1) ∧
    (∀ x, s.executes (.ldDTVx x) → t.dt = s.reg x) ∧
    ((∀ x, ¬ s.executes (.ldSTVx x)) → t.st.toNat = s.st.toNat - 1) ∧
    (∀ x, s.executes (.ldSTVx x) → t.st = s.reg x)

/-- `LD DT,Vx` followed directly by `LD Vy,DT` reads one less than the value written, and 0 for 0 (R196). -/
def Obligations.TimerReadAfterWriteIsOneLess : Prop :=
  ∀ (s t u : State) (x y : Reg),
    s.nextEvent = .step → s.executes (.ldDTVx x) → step s = .next t →
    t.nextEvent = .step → t.executes (.ldVxDT y) → step t = .next u →
    (u.reg y).toNat = (s.reg x).toNat - 1

/-- Every step answers a next state, whatever the state, unless the event is a reset with an image that is too large: no data and no
instruction word stops the machine (R163, R167; faults as next states: assumption log 6). -/
def Obligations.EveryStepAnswersANextState : Prop :=
  ∀ s : State, (∀ image, s.nextEvent = .reset image → image.length ≤ 3584) → ∃ t, step s = .next t

/-! ### Faults -/

/-- Every operation answers a next state; it records a fault exactly in the cases of R163, and then nothing but `FAULT` changes, the
`PC` included (R166; no partial effect by decision D17, assumption log 16). -/
def Obligations.OperationsFaultExactlyWhenTheRulesSay : Prop :=
  ∀ (i : Instr) (s : State),
    (∀ f, i.faultOf s = some f → exec i s = .next { s with fault := some f }) ∧
    (i.faultOf s = none → ∃ t, exec i s = .next t ∧ t.fault = s.fault)

/-- A step that records a fault leaves `PC` at the faulting instruction, has counted the timers down, and has changed nothing else; the
core was not waiting for a key (R166; decisions D17, D18, assumption log 16). -/
def Obligations.FaultsArePrecise : Prop :=
  ∀ s t : State, s.nextEvent = .step → s.fault = none → step s = .next t → t.fault ≠ none →
    t = { s.consumeEvent.tickTimers with fault := t.fault } ∧ t.pc = s.pc ∧ s.wait = none ∧ t.wait = none

/-! ### Events of the host -/

/-- `KeyPress(k)`: key `k` is held, a pending wait's register gets `k` and the wait ends, and nothing else changes, in every state of the
core, a faulted one too (R153; decisions D21, D29, assumption log 17). -/
def Obligations.KeyPressHoldsTheKeyAndEndsTheWait : Prop :=
  ∀ (s : State) (k : Key), s.nextEvent = .keyPress k →
    ∃ t, step s = .next t ∧ (∀ j : Key, t.key[j.val] = if j = k then true else s.key[j.val]) ∧ t.wait = none ∧
      (∀ r, s.wait = some r → (t.reg r).toNat = k.val ∧ State.keepsRegsBut [r] s t) ∧
      (s.wait = none → State.keepsRegsBut [] s t) ∧
      State.keepsBut [.key, .wait, .regs, .hostSchedule] s t ∧ t.hostSchedule = s.hostSchedule.tail

/-- `KeyRelease(k)`: key `k` is not held, and nothing else changes, the wait included (R154; decision D21, assumption log 17). -/
def Obligations.KeyReleaseEndsNoWait : Prop :=
  ∀ (s : State) (k : Key), s.nextEvent = .keyRelease k →
    ∃ t, step s = .next t ∧ (∀ j : Key, t.key[j.val] = if j = k then false else s.key[j.val]) ∧
      State.keepsBut [.key, .hostSchedule] s t ∧ t.hostSchedule = s.hostSchedule.tail

/-- A wait that lasts through any number of steps ends with the press that follows: the register holds the key's number, `PC` is where it
was, no fault is recorded, so execution resumes there on the next step (R152, R153; decision D21, assumption log 17). -/
def Obligations.KeyPressResumesAfterAnyWait : Prop :=
  ∀ (n : Nat) (s : State) (r : Reg) (k : Key), s.fault = none → s.wait = some r →
    s.hostSchedule = List.replicate n .step ++ [.keyPress k] →
    ∃ t, core.run (n + 1) s = .next t ∧ (t.reg r).toNat = k.val ∧ t.wait = none ∧ t.fault = none ∧
      t.hostSchedule = [] ∧ State.keepsRegsBut [r] s t ∧ State.keepsBut [.regs, .wait, .key, .dt, .st, .hostSchedule] s t

/-- `Reset(IMAGE)` is accepted exactly when the image has at most 3584 bytes; it then leaves every register, timer, key and pixel clear, `PC`
at 0x200, no fault and no wait, and memory zero but for the font and the image (R190, R191, R37; reset values by decision
D22, font bytes by D16, the refusal by D32: assumption log 1, 15, 21; schedule and draws go on, log 5). -/
def Obligations.ResetBuildsTheMachineOrRefuses : Prop :=
  ∀ (s : State) (image : List Byte), s.nextEvent = .reset image →
    (image.length ≤ 3584 →
      ∃ t, step s = .next t ∧ (∀ r, t.reg r = 0#8) ∧ t.i = 0#16 ∧ t.pc = 0x200#16 ∧ t.sp = 0 ∧
        (∀ k : Fin 16, t.stack[k.val] = 0#16) ∧ t.dt = 0#8 ∧ t.st = 0#8 ∧ (∀ k : Key, t.key[k.val] = false) ∧
        t.wait = none ∧ (∀ row col, t.fb.pixel row col = false) ∧ t.fault = none ∧
        (∀ a, t.mem.byteAt a =
          if a < 80 then fontTable.getD a 0
          else if 0x200 ≤ a ∧ a < 0x200 + image.length then image.getD (a - 0x200) 0
          else 0#8) ∧
        t.hostSchedule = s.hostSchedule.tail ∧ t.draws = s.draws) ∧
    (3584 < image.length → step s = .refused (.imageTooLarge image.length))

/-- The state after reset holds the values of the table of R37 (the spec's decision D22, font bytes by D16: assumption log 1, 15). -/
def Obligations.ResetStateHoldsTheResetValues : Prop :=
  (∀ r, State.reset.reg r = 0#8) ∧ State.reset.i = 0#16 ∧ State.reset.pc = 0x200#16 ∧ State.reset.sp = 0 ∧
  (∀ k : Fin 16, State.reset.stack[k.val] = 0#16) ∧ State.reset.dt = 0#8 ∧ State.reset.st = 0#8 ∧
  (∀ k : Key, State.reset.key[k.val] = false) ∧ State.reset.wait = none ∧
  (∀ row col, State.reset.fb.pixel row col = false) ∧ State.reset.fault = none ∧
  State.reset.mem.bytes 0 80 =
    [0xF0, 0x90, 0x90, 0x90, 0xF0, 0x20, 0x60, 0x20, 0x20, 0x70, 0xF0, 0x10, 0xF0, 0x80, 0xF0, 0xF0, 0x10, 0xF0, 0x10, 0xF0,
     0x90, 0x90, 0xF0, 0x10, 0x10, 0xF0, 0x80, 0xF0, 0x10, 0xF0, 0xF0, 0x80, 0xF0, 0x90, 0xF0, 0xF0, 0x10, 0x20, 0x40, 0x40] ++
    [0xF0, 0x90, 0xF0, 0x90, 0xF0, 0xF0, 0x90, 0xF0, 0x10, 0xF0, 0xF0, 0x90, 0xF0, 0x90, 0x90, 0xE0, 0x90, 0xE0, 0x90, 0xE0,
     0xF0, 0x80, 0x80, 0x80, 0xF0, 0xE0, 0x90, 0x90, 0x90, 0xE0, 0xF0, 0x80, 0xF0, 0x80, 0xF0, 0xF0, 0x80, 0xF0, 0x80, 0x80] ∧
  ∀ a, 80 ≤ a → State.reset.mem.byteAt a = 0#8

/-! ### Invariants and whole-machine rules -/

/-- The invariant holds right after reset. -/
def Obligations.InvariantHoldsAtReset : Prop := State.reset.Inv

/-- Every step keeps the invariant, whatever the event: memory in canonical form, `PC` at most 4350 (R25), every stack slot at most 4096
(R101), no wait in a faulted core (R166), and a recorded fault that holds what R163 says. -/
def Obligations.InvariantKeptByEveryStep : Prop :=
  ∀ s t : State, s.Inv → step s = .next t → t.Inv

/-- An operation changes only the parts and registers that R21 and R38 give it (the flags left alone by decisions D8, D9, D11, `I` left
alone by D12: assumption log 9, 11). -/
def Obligations.OperationsChangeOnlyTheirParts : Prop :=
  ∀ (i : Instr) (s t : State), exec i s = .next t →
    State.keepsBut i.changes s t ∧ State.keepsRegsBut i.destRegs s t

/-- No program observes the sound timer: two states that differ only in `ST` step to states that differ at most in `ST`, and stop alike
(R28, "No instruction reads it"; conflict C1). -/
def Obligations.SoundTimerIsNeverObserved : Prop :=
  ∀ (s : State) (u : Byte),
    (∀ t, step s = .next t → ∃ u', step { s with st := u } = .next { t with st := u' }) ∧
    (∀ r, step s = .refused r → step { s with st := u } = .refused r)

/-- No step reads a stack slot that is not in use: two states that differ only in slots at `SP` and above step to such states again (R26,
"no rule reads them"). -/
def Obligations.UnusedStackSlotsAreNeverRead : Prop :=
  ∀ s s' t : State, State.sameLive s s' → step s = .next t → ∃ t', step s' = .next t' ∧ State.sameLive t t'

/-- A run that has ended successfully stays so through any number of steps: the core is at its jump to itself and only the timers
change (R199, decision D33, assumption log 24). -/
def Obligations.EndedRunOnlyCountsTimersDown : Prop :=
  ∀ (n : Nat) (s : State), s.endedSuccessfully → s.hostSchedule = [] →
    core.run n s = .next { s with
      dt := BitVec.ofNat 8 (s.dt.toNat - n)
      st := BitVec.ofNat 8 (s.st.toNat - n) }

/-- A word of the opcode table placed by `withFetchWord` is the instruction the very next step runs, from every state (the model's own
interface, assumption log 22; byte order R55). -/
def Obligations.PlacedWordIsRunByTheNextStep : Prop :=
  ∀ (s : State) (w : Nat) (i : Instr), s.mem.wf = true → decodeTableWord 16 w = some i →
    step (s.withFetchWord 16 w) = exec i (s.withFetchWord 16 w).tickTimers

/-! ### Memory -/

/-- `MemRead` and `MemWrite` check the whole range first: no bytes always pass, `n >= 1` bytes pass exactly when `addr + n - 1 <= 4095`, and
a failed check records `max(addr, 4096)` (R53, R54; decisions D17, D19, assumption log 16). -/
def Obligations.AccessesCheckTheWholeRange : Prop :=
  ∀ (m : Memory) (addr n : Nat) (bytes : List Byte), bytes.length = n →
    (n = 0 → memRead m addr n = .ok [] ∧ memWrite m addr bytes = .ok m) ∧
    (1 ≤ n → addr + n - 1 ≤ 4095 →
      ∃ rd m', memRead m addr n = .ok rd ∧ memWrite m addr bytes = .ok m' ∧ rd.length = n ∧
        ∀ k, k < n → rd.getD k 0 = m.byteAt (addr + k)) ∧
    (1 ≤ n → 4095 < addr + n - 1 →
      memRead m addr n = .error (.memoryBounds (max addr 4096)) ∧
      memWrite m addr bytes = .error (.memoryBounds (max addr 4096)))

/-- Reading after a write gives the bytes written, every byte outside the range is as before, and the canonical form is kept (R53, R62;
canonical form: assumption log 2). -/
def Obligations.ReadAfterWriteGivesTheBytes : Prop :=
  ∀ (m m' : Memory) (addr : Nat) (bytes : List Byte), m.wf = true → memWrite m addr bytes = .ok m' →
    memRead m' addr bytes.length = .ok bytes ∧
    (∀ a, a < addr ∨ addr + bytes.length ≤ a → m'.byteAt a = m.byteAt a) ∧ m'.wf = true

/-- Two memories in canonical form that read alike at the 4096 addresses are the same data (the model's own form, assumption log 2). -/
def Obligations.MemoryIsDeterminedByItsBytes : Prop :=
  ∀ m m' : Memory, m.wf = true → m'.wf = true → (∀ a, a < 4096 → m.byteAt a = m'.byteAt a) → m = m'

/-- A store is seen by the very next fetch, wherever it falls in the instruction stream: after `LD [I],Vx`, for every `x`, and after `LD B,Vx`,
each byte of the word at the next `PC` is the byte the store put there, and the byte that stood there where the store does not
reach. So with `I = PC + 2` and `x >= 1` the next word is `V0` high, `V1` low (R64, R55; byte order by decision D1, assumption log 14;
memory is in the canonical form that every step keeps, log 2). -/
def Obligations.StoredWordIsFetchedNext : Prop :=
  ∀ (x : Reg) (s : State), s.mem.wf = true → s.pc.toNat + 3 ≤ 4095 →
    (s.i.toNat + x.val ≤ 4095 →
      ∃ t, exec (.ldMemVx x) s = .next t ∧
        s.nextFetchSeesStore (x.val + 1) (fun k => (s.reg (Fin.ofNat 16 k)).toNat) t) ∧
    (s.i.toNat + 2 ≤ 4095 →
      ∃ t, exec (.ldB x) s = .next t ∧
        s.nextFetchSeesStore 3
          (fun k => [(s.reg x).toNat / 100, (s.reg x).toNat / 10 % 10, (s.reg x).toNat % 10].getD k 0) t) ∧
    (1 ≤ x.val → s.i.toNat = s.pc.toNat + 2 → s.i.toNat + x.val ≤ 4095 →
      ∃ t w, exec (.ldMemVx x) s = .next t ∧ t.pc = s.i ∧ fetchWord t.mem t.pc.toNat = .ok w ∧
        w.toNat = (s.reg 0).toNat * 256 + (s.reg 1).toNat)

/-! ### Control flow -/

/-- `JP nnn` and `JP V0,nnn` write `PC` and nothing else; the sum of `JP V0` is not reduced modulo 4096 (R100, R107; the offset register
by decision D10, assumption log 10). -/
def Obligations.JumpsWriteOnlyThePc : Prop :=
  ∀ (nnn : Imm12) (s : State),
    exec (.jp nnn) s = .next { s with pc := BitVec.ofNat 16 nnn.toNat } ∧
    exec (.jpV0 nnn) s = .next { s with pc := BitVec.ofNat 16 (nnn.toNat + (s.reg 0).toNat) }

/-- `CALL nnn` with fewer than 16 frames pushes `PC + 2` into slot `SP`, raises `SP` by one and jumps, and nothing else changes; with 16
frames it records `StackError(Overflow)` and changes nothing else (R101; slot and pushed value by decision D25, log 13). -/
def Obligations.CallPushesTheReturnAddress : Prop :=
  ∀ (nnn : Imm12) (s : State),
    (s.sp.val < 16 →
      ∃ t, exec (.call nnn) s = .next t ∧ t.pc.toNat = nnn.toNat ∧ t.sp.val = s.sp.val + 1 ∧
        (∀ k : Fin 16, t.stack[k.val] = if k.val = s.sp.val then s.pc + 2#16 else s.stack[k.val]) ∧
        State.keepsBut [.pc, .sp, .stack] s t) ∧
    (s.sp = 16 → exec (.call nnn) s = .next { s with fault := some (.stackError .overflow) })

/-- R102: `RET` (00EE) with `SP = 0` records `StackError(Underflow)` and changes nothing else; otherwise it writes the popped slot to `PC` as
it is and lowers `SP` by one; the slot keeps its value. -/
def Obligations.ReturnPopsIntoThePc : Prop :=
  decodeWord 0x00EE#16 = .ok .ret ∧
  ∀ s : State,
    (s.sp = 0 → exec .ret s = .next { s with fault := some (.stackError .underflow) }) ∧
    (0 < s.sp.val →
      ∃ t, exec .ret s = .next t ∧ (∀ k : Fin 16, k.val + 1 = s.sp.val → t.pc = s.stack[k.val]) ∧
        t.sp.val + 1 = s.sp.val ∧ State.keepsBut [.pc, .sp] s t)

/-- A call followed by a return restores the `PC` of the call plus 2 and the depth of the stack; the slot the call used holds that
`PC`, and every other slot and everything else is as before (R101, R102; decision D25, log 13). -/
def Obligations.CallThenReturnRestoresThePc : Prop :=
  ∀ (nnn : Imm12) (s : State), s.sp.val < 16 →
    ∃ t u, exec (.call nnn) s = .next t ∧ exec .ret t = .next u ∧ u.pc = s.pc + 2#16 ∧ u.sp = s.sp ∧
      (∀ k : Fin 16, u.stack[k.val] = if k.val = s.sp.val then s.pc + 2#16 else s.stack[k.val]) ∧
      State.keepsBut [.pc, .stack] s u ∧ State.sameLive { s with pc := s.pc + 2#16 } u

/-- R103 and R104: 3XKK and 4XKK decode to `SE` and `SNE` by immediate, and advance `PC` by 4 when the condition holds, else by 2; nothing
else changes, so the word passed over is neither fetched nor decoded. -/
def Obligations.SkipByImmediate : Prop :=
  ∀ (x : Reg) (kk : Byte) (s : State),
    decodeWord (BitVec.ofNat 16 (0x3000 + x.val * 256 + kk.toNat)) = .ok (.seImm x kk) ∧
    decodeWord (BitVec.ofNat 16 (0x4000 + x.val * 256 + kk.toNat)) = .ok (.sneImm x kk) ∧
    exec (.seImm x kk) s = .next { s with pc := if s.reg x = kk then s.pc + 4#16 else s.pc + 2#16 } ∧
    exec (.sneImm x kk) s = .next { s with pc := if s.reg x ≠ kk then s.pc + 4#16 else s.pc + 2#16 }

/-- R105 and R106: 5XY0 and 9XY0 decode to `SE` and `SNE` by register, with any other low nibble they are decode failures, and they advance
`PC` by 4 when the condition holds, else by 2; nothing else changes. -/
def Obligations.SkipByRegister : Prop :=
  ∀ (x y n : Reg) (s : State),
    decodeWord (BitVec.ofNat 16 (0x5000 + x.val * 256 + y.val * 16)) = .ok (.seReg x y) ∧
    decodeWord (BitVec.ofNat 16 (0x9000 + x.val * 256 + y.val * 16)) = .ok (.sneReg x y) ∧
    (n ≠ 0 → ∀ i, decodeWord (BitVec.ofNat 16 (0x5000 + x.val * 256 + y.val * 16 + n.val)) ≠ .ok i ∧
      decodeWord (BitVec.ofNat 16 (0x9000 + x.val * 256 + y.val * 16 + n.val)) ≠ .ok i) ∧
    exec (.seReg x y) s = .next { s with pc := if s.reg x = s.reg y then s.pc + 4#16 else s.pc + 2#16 } ∧
    exec (.sneReg x y) s = .next { s with pc := if s.reg x ≠ s.reg y then s.pc + 4#16 else s.pc + 2#16 }

/-! ### Registers and arithmetic -/

/-- `LD Vx,kk`, `ADD Vx,kk`, `LD Vx,Vy`: the destination holds the immediate, the sum modulo 256 or the source; no flag is written and nothing
else changes (R111, R112, R113; no flag by decision D9, log 9). -/
def Obligations.LoadsAndImmediateAdd : Prop :=
  ∀ (x y : Reg) (kk : Byte) (s : State),
    (∃ t, exec (.ldImm x kk) s = .next t ∧ s.hasResult x kk t) ∧
    (∃ t, exec (.addImm x kk) s = .next t ∧ s.hasResult x (BitVec.ofNat 8 (((s.reg x).toNat + kk.toNat) % 256)) t) ∧
    (∃ t, exec (.ldReg x y) s = .next t ∧ s.hasResult x (s.reg y) t)

/-- `OR`, `AND`, `XOR` combine the two registers bit by bit into `V[x]`, and leave `V[15]` and everything else as it is (R114, R115, R116; no
flag by decision D8, log 9). -/
def Obligations.LogicIsBitwise : Prop :=
  ∀ (x y : Reg) (s : State),
    (∃ t u, exec (.orReg x y) s = .next t ∧ s.hasResult x u t ∧
      ∀ j, j < 8 → u.getLsbD j = ((s.reg x).getLsbD j || (s.reg y).getLsbD j)) ∧
    (∃ t u, exec (.andReg x y) s = .next t ∧ s.hasResult x u t ∧
      ∀ j, j < 8 → u.getLsbD j = ((s.reg x).getLsbD j && (s.reg y).getLsbD j)) ∧
    (∃ t u, exec (.xorReg x y) s = .next t ∧ s.hasResult x u t ∧
      ∀ j, j < 8 → u.getLsbD j = ((s.reg x).getLsbD j ^^ (s.reg y).getLsbD j))

/-- R117: 8XY4 decodes to `ADD Vx,Vy`; `V[x]` holds the sum modulo 256 and `V[15]` is 1 exactly when the sum is above 255, but with `x = 15` the
sum remains; nothing else changes. -/
def Obligations.AddWithCarryOut : Prop :=
  ∀ (x y : Reg) (s : State),
    decodeWord (BitVec.ofNat 16 (0x8004 + x.val * 256 + y.val * 16)) = .ok (.addReg x y) ∧
    ∃ t, exec (.addReg x y) s = .next t ∧
      s.hasFlaggedResult x (if 255 < (s.reg x).toNat + (s.reg y).toNat then 1 else 0)
        (((s.reg x).toNat + (s.reg y).toNat) % 256) t

/-- R118: 8XY5 decodes to `SUB Vx,Vy`; `V[x]` holds `V[x] - V[y]` modulo 256 and `V[15]` is 1 exactly when `V[x] >= V[y]`, but with `x = 15` the
difference remains; nothing else changes. -/
def Obligations.SubtractWithNoBorrow : Prop :=
  ∀ (x y : Reg) (s : State),
    decodeWord (BitVec.ofNat 16 (0x8005 + x.val * 256 + y.val * 16)) = .ok (.sub x y) ∧
    ∃ t, exec (.sub x y) s = .next t ∧
      s.hasFlaggedResult x (if (s.reg y).toNat ≤ (s.reg x).toNat then 1 else 0)
        (((s.reg x).toNat + 256 - (s.reg y).toNat) % 256) t

/-- `SUBN Vx,Vy`: `V[x]` holds `V[y] - V[x]` modulo 256 and `V[15]` is 1 exactly when `V[y] >= V[x]`, but with `x = 15` the difference
remains; nothing else changes (R121, R110). -/
def Obligations.SubtractReversedWithNoBorrow : Prop :=
  ∀ (x y : Reg) (s : State),
    ∃ t, exec (.subn x y) s = .next t ∧
      s.hasFlaggedResult x (if (s.reg x).toNat ≤ (s.reg y).toNat then 1 else 0)
        (((s.reg y).toNat + 256 - (s.reg x).toNat) % 256) t

/-- `SHR` and `SHL` shift `V[x]` by one whatever `y` is; `V[15]` is the bit shifted out, but with `x = 15` the shifted old value remains;
nothing else changes (R119, R120, R110; the register by decision D7, the sampling by D6: log 7, 8). -/
def Obligations.ShiftsMoveOneBitOut : Prop :=
  ∀ (x y : Reg) (s : State),
    (∃ t, exec (.shr x y) s = .next t ∧ s.hasFlaggedResult x ((s.reg x).toNat % 2) ((s.reg x).toNat / 2) t) ∧
    (∃ t, exec (.shl x y) s = .next t ∧ s.hasFlaggedResult x ((s.reg x).toNat / 128) ((s.reg x).toNat * 2 % 256) t)

/-- R140: CXKK decodes to `RND Vx,kk`; `V[x]` holds a free byte masked with `kk`, so it is at most `kk`, 0 for `kk = 0`, and 0 in every bit that
`kk` has 0; one draw is consumed by it and none by any other instruction; nothing else changes. -/
def Obligations.RandomByteIsMasked : Prop :=
  (∀ (x : Reg) (kk : Byte) (s : State),
    decodeWord (BitVec.ofNat 16 (0xC000 + x.val * 256 + kk.toNat)) = .ok (.rnd x kk) ∧
    ∃ (t : State) (r : Byte), exec (.rnd x kk) s = .next t ∧ r = Config.randomByte s.draws ∧ t.draws = s.draws + 1 ∧
      (∀ j, j < 8 → (t.reg x).getLsbD j = (r.getLsbD j && kk.getLsbD j)) ∧ (t.reg x).toNat ≤ kk.toNat ∧
      (kk = 0x00#8 → t.reg x = 0#8) ∧ (kk = 0xFF#8 → t.reg x = r) ∧
      State.keepsRegsBut [x] s t ∧ State.keepsBut [.regs, .pc, .draws] s t ∧ t.pc = s.pc + 2#16) ∧
  (∀ (i : Instr) (s t : State), exec i s = .next t → (∀ x kk, i ≠ .rnd x kk) → t.draws = s.draws)

/-! ### Address register and memory instructions -/

/-- `LD I,nnn`, `ADD I,Vx`, `LD F,Vx` write `I` and advance `PC`, and nothing else: the immediate, the sum modulo 65536, five times the low
nibble of `V[x]` (R130, R131, R135; decisions D11, D13, D16: log 9, 12, 15). -/
def Obligations.AddressRegisterResults : Prop :=
  ∀ (nnn : Imm12) (x : Reg) (s : State),
    exec (.ldI nnn) s = .next { s with i := BitVec.ofNat 16 nnn.toNat, pc := s.pc + 2#16 } ∧
    exec (.addI x) s =
      .next { s with i := BitVec.ofNat 16 ((s.i.toNat + (s.reg x).toNat) % 65536), pc := s.pc + 2#16 } ∧
    exec (.ldF x) s = .next { s with i := BitVec.ofNat 16 (5 * ((s.reg x).toNat % 16)), pc := s.pc + 2#16 }

/-- `LD [I],Vx` with `I + x <= 4095`: `MEM[I + k]` holds `V[k]` for `k = 0..x`, every byte outside those `x + 1` bytes from the store's address and
everything else but `PC` is as before, `I` included (R132; decision D12, log 11). -/
def Obligations.StoreBlockWritesTheRegisters : Prop :=
  ∀ (x : Reg) (s : State), s.mem.wf = true → s.i.toNat + x.val ≤ 4095 →
    ∃ t, exec (.ldMemVx x) s = .next t ∧
      (∀ k : Reg, k.val ≤ x.val → t.mem.byteAt (s.i.toNat + k.val) = s.reg k) ∧
      (∀ a, s.dataAddr = a → State.keepsMemBut a (x.val + 1) s t) ∧
      State.keepsBut [.mem, .pc] s t ∧ t.pc = s.pc + 2#16

/-- `LD Vx,[I]` with `I + x <= 4095`: `V[k]` holds `MEM[I + k]` for `k = 0..x`, and every other register and everything else but `PC` is as before,
`I` and all of memory included (R133; decision D12, log 11). -/
def Obligations.LoadBlockReadsTheRegisters : Prop :=
  ∀ (x : Reg) (s : State), s.i.toNat + x.val ≤ 4095 →
    ∃ t, exec (.ldVxMem x) s = .next t ∧
      (∀ k : Reg, k.val ≤ x.val → t.reg k = s.mem.byteAt (s.i.toNat + k.val)) ∧
      (∀ k : Reg, x.val < k.val → t.reg k = s.reg k) ∧
      State.keepsBut [.regs, .pc] s t ∧ t.pc = s.pc + 2#16

/-- R134: FX33 decodes to `LD B,Vx`; with `I + 2 <= 4095` the hundreds, tens and ones digits of `V[x]` stand at `I`, `I + 1`, `I + 2`, each 0..9 and
the hundreds at most 2, and every other byte and everything else but `PC` is as before; otherwise a bounds fault is
recorded and nothing else changes. Memory is in the canonical form that every step keeps. -/
def Obligations.BcdStoresTheThreeDigits : Prop :=
  ∀ (x : Reg) (s : State),
    decodeWord (BitVec.ofNat 16 (0xF033 + x.val * 256)) = .ok (.ldB x) ∧
    (s.mem.wf = true → s.i.toNat + 2 ≤ 4095 →
      ∃ t, exec (.ldB x) s = .next t ∧
        (t.mem.byteAt s.i.toNat).toNat = (s.reg x).toNat / 100 ∧
        (t.mem.byteAt (s.i.toNat + 1)).toNat = (s.reg x).toNat / 10 % 10 ∧
        (t.mem.byteAt (s.i.toNat + 2)).toNat = (s.reg x).toNat % 10 ∧
        (t.mem.byteAt s.i.toNat).toNat ≤ 2 ∧ (∀ k, k < 3 → (t.mem.byteAt (s.i.toNat + k)).toNat ≤ 9) ∧
        (∀ a, s.dataAddr = a → State.keepsMemBut a 3 s t) ∧
        State.keepsBut [.mem, .pc] s t ∧ t.pc = s.pc + 2#16) ∧
    (4095 < s.i.toNat + 2 → ∃ a, exec (.ldB x) s = .next { s with fault := some (.memoryBounds a) })

/-! ### Display -/

/-- `DRW Vx,Vy,n` with its sprite in memory: exactly the pixels under a 1 bit of the sprite are inverted, with wrap-around at both edges, `V[15]` is
1 if one of them was set and else 0, and every other register and everything else but `PC` is as before, all of memory
included (R145, R147, "one blit never touches the same pixel twice"; pixel order by decision D15, log 18). -/
def Obligations.DrawInvertsThePixelsUnderTheSprite : Prop :=
  ∀ (x y : Reg) (n : RowCount) (s : State), n.val = 0 ∨ s.i.toNat + n.val - 1 ≤ 4095 →
    ∃ t, exec (.drw x y n) s = .next t ∧
      (∀ row col, s.spriteCovers x y n row col → t.fb.pixel row col = !(s.fb.pixel row col)) ∧
      (∀ row col, ¬ s.spriteCovers x y n row col → t.fb.pixel row col = s.fb.pixel row col) ∧
      ((∃ row col, s.spriteCovers x y n row col ∧ s.fb.pixel row col = true) → t.reg 15 = 1#8) ∧
      ((¬ ∃ row col, s.spriteCovers x y n row col ∧ s.fb.pixel row col = true) → t.reg 15 = 0#8) ∧
      State.keepsRegsBut [15] s t ∧ State.keepsBut [.fb, .regs, .pc] s t ∧ t.pc = s.pc + 2#16

/-- Drawing the same sprite twice at the same place restores the frame, and the second draw's flag is 1 exactly when the sprite covers a pixel that
was unset before the first (the property of the source's section 8 behind S8; R145, R147). The coordinate registers are
not `V[15]`, which the first draw writes. -/
def Obligations.DrawingTwiceRestoresTheFrame : Prop :=
  ∀ (x y : Reg) (n : RowCount) (s : State), x ≠ 15 → y ≠ 15 → n.val = 0 ∨ s.i.toNat + n.val - 1 ≤ 4095 →
    ∃ t u, exec (.drw x y n) s = .next t ∧ exec (.drw x y n) t = .next u ∧
      (∀ row col, u.fb.pixel row col = s.fb.pixel row col) ∧
      (u.reg 15 = 1#8 ↔ ∃ row col, s.spriteCovers x y n row col ∧ s.fb.pixel row col = false)

/-- `CLS` leaves every pixel unset, and everything else but `PC` as it is, `V[15]` included (R146; the operation by decision D5, log 23). -/
def Obligations.ClearUnsetsEveryPixel : Prop :=
  ∀ s : State, ∃ t, exec .cls s = .next t ∧ (∀ row col, t.fb.pixel row col = false) ∧
    State.keepsBut [.fb, .pc] s t ∧ t.pc = s.pc + 2#16

/-! ### Keypad and timers -/

/-- `SKP Vx` and `SKNP Vx` test the key that the low nibble of `V[x]` names, and advance `PC` by 4 or 2; nothing else changes (R150, R151; the low
nibble by decision D14, log 12). -/
def Obligations.KeySkipsTestTheKeyOfTheLowNibble : Prop :=
  ∀ (x : Reg) (k : Key) (s : State), (s.reg x).toNat % 16 = k.val →
    exec (.skp x) s = .next { s with pc := if s.key[k.val] = true then s.pc + 4#16 else s.pc + 2#16 } ∧
    exec (.sknp x) s = .next { s with pc := if s.key[k.val] = false then s.pc + 4#16 else s.pc + 2#16 }

/-- `LD Vx,K` sets the wait for register `x` and advances `PC`; it writes no register, and keys already held do not end the wait (R152; decision D21,
log 17). -/
def Obligations.WaitForKeySetsTheLatch : Prop :=
  ∀ (x : Reg) (s : State), exec (.ldVxK x) s = .next { s with wait := some x, pc := s.pc + 2#16 }

/-- The three timer moves: `LD Vx,DT` copies `DT` into `V[x]`, `LD DT,Vx` and `LD ST,Vx` copy `V[x]` into the timer; nothing else but `PC` changes
(R157, R158, R159). -/
def Obligations.TimerMovesCopyOneByte : Prop :=
  ∀ (x : Reg) (s : State),
    (∃ t, exec (.ldVxDT x) s = .next t ∧ s.hasResult x s.dt t) ∧
    exec (.ldDTVx x) s = .next { s with dt := s.reg x, pc := s.pc + 2#16 } ∧
    exec (.ldSTVx x) s = .next { s with st := s.reg x, pc := s.pc + 2#16 }
end

