-- ==== Sys2Proof/Laws/Encoding.lean ====
section
/-! SUPPORT. Small lemmas about the encoder's fields and the operand check. -/

namespace Sys2Proof

/-- Every term meets the operand check: the types carry the ranges (R73). -/
theorem Instr.wellFormed_all (i : Instr) : i.wellFormed = true := by
  cases i <;> simp [Instr.wellFormed] <;> omega

/-- The value of an instruction word of two bytes, the first byte high (R55). -/
theorem toNat_wordOfBytes (hi lo : Byte) : (wordOfBytes hi lo).toNat = hi.toNat * 256 + lo.toNat := by
  change (hi ++ lo : BitVec (8 + 8)).toNat = _
  rw [BitVec.toNat_append, ← Nat.shiftLeft_add_eq_or_of_lt lo.isLt, Nat.shiftLeft_eq]

theorem wordOfBytes_high_low (w : Word) : wordOfBytes (highByte w) (lowByte w) = w := by
  apply BitVec.eq_of_toNat_eq
  rw [toNat_wordOfBytes]
  simp only [highByte, lowByte, BitVec.extractLsb'_toNat, Nat.shiftRight_eq_div_pow]
  have := w.isLt
  omega

/-! Each placed field lies under the mask's zero bits (R72, R75). -/

theorem placeX_opMask (x : Reg) : placeX x &&& 0xF000#16 = 0#16 := by revert x; decide
theorem placeX_subMask (x : Reg) : placeX x &&& 0xF00F#16 = 0#16 := by revert x; decide
theorem placeX_byteMask (x : Reg) : placeX x &&& 0xF0FF#16 = 0#16 := by revert x; decide
theorem placeY_opMask (y : Reg) : placeY y &&& 0xF000#16 = 0#16 := by revert y; decide
theorem placeY_subMask (y : Reg) : placeY y &&& 0xF00F#16 = 0#16 := by revert y; decide
theorem placeN_opMask (n : RowCount) : placeN n &&& 0xF000#16 = 0#16 := by revert n; decide
theorem zext16_opMask (kk : Byte) : zext16 kk &&& 0xF000#16 = 0#16 := by revert kk; decide
theorem zextImm_opMask (nnn : Imm12) : zextImm nnn &&& 0xF000#16 = 0#16 := by
  ext i hi
  have := nnn.isLt
  simp only [zextImm, BitVec.getElem_and, BitVec.getElem_setWidth, BitVec.getElem_zero]
  by_cases h : i < 12
  · have : (0xF000#16)[i] = false := by revert i; decide
    simp [this]
  · simp [BitVec.getLsbD_of_ge _ _ (Nat.le_of_not_lt h)]

end Sys2Proof
end

