-- ==== Sys2Proof/Laws/Memory.lean ====
section
/-! SUPPORT. What the memory operations do, said once: reading after a write, and that every operation keeps the canonical form. -/

namespace Sys2Proof.Machine.Memory

@[simp] theorem byteAt_nil (a : Nat) : byteAt [] a = resetByte a := rfl

theorem byteAt_cons (b : Nat) (w : Byte) (rest : Memory) (a : Nat) :
    byteAt ((b, w) :: rest) a = if a = b then w else byteAt rest a := rfl

/-- The parts of the canonical form of a list with a first cell. -/
theorem wfFrom_cons {lo a : Nat} {u : Byte} {rest : Memory} :
    wfFrom lo ((a, u) :: rest) = true ↔
      lo ≤ a ∧ a < Config.memSize ∧ u ≠ resetByte a ∧ wfFrom (a + 1) rest = true := by
  simp [wfFrom, and_assoc]

theorem wfFrom_mono {lo lo' : Nat} {m : Memory} (h : lo' ≤ lo) (hm : wfFrom lo m = true) : wfFrom lo' m = true := by
  cases m with
  | nil => rfl
  | cons c rest => obtain ⟨a, u⟩ := c; rw [wfFrom_cons] at hm ⊢; exact ⟨by omega, hm.2⟩

/-- Below its first cell a canonical list says nothing: the reset contents are read there. -/
theorem byteAt_of_lt {lo a : Nat} {m : Memory} (hm : wfFrom lo m = true) (h : a < lo) : m.byteAt a = resetByte a := by
  induction m generalizing lo with
  | nil => rfl
  | cons c rest ih =>
    obtain ⟨b, w⟩ := c
    rw [wfFrom_cons] at hm
    rw [byteAt_cons, if_neg (by omega)]
    exact ih hm.2.2.2 (by omega)

theorem byteAt_consCell {a : Nat} {u : Byte} {rest : Memory} (h : wfFrom (a + 1) rest = true) (b : Nat) :
    byteAt (consCell a u rest) b = if b = a then u else byteAt rest b := by
  unfold consCell
  split
  · rename_i hu
    split
    · subst b; rw [byteAt_of_lt h (by omega), hu]
    · rfl
  · rfl

theorem wfFrom_consCell {lo a : Nat} {u : Byte} {rest : Memory} (hlo : lo ≤ a) (ha : a < Config.memSize)
    (h : wfFrom (a + 1) rest = true) : wfFrom lo (consCell a u rest) = true := by
  unfold consCell
  split
  · exact wfFrom_mono (by omega) h
  · rename_i hu; rw [wfFrom_cons]; exact ⟨hlo, ha, hu, h⟩

/-- Reading after a write, at the written address and elsewhere. -/
theorem byteAt_write {m : Memory} (hm : m.wf = true) (a : Nat) (u : Byte) (b : Nat) :
    (m.write a u).byteAt b = if b = a then u else m.byteAt b := by
  unfold wf at hm
  generalize 0 = lo at hm
  induction m generalizing lo with
  | nil => exact byteAt_consCell rfl b
  | cons c rest ih =>
    obtain ⟨d, w⟩ := c
    have hr := (wfFrom_cons.1 hm).2.2.2
    simp only [write]
    split
    · rename_i hlt
      have := wfFrom_cons.1 hm
      exact byteAt_consCell (wfFrom_cons.2 ⟨by omega, this.2⟩) b
    · split
      · rename_i heq
        subst heq
        rw [byteAt_consCell hr, byteAt_cons]
        split <;> rfl
      · rw [byteAt_cons, byteAt_cons, ih _ hr]
        split
        · rename_i h1; rw [if_neg (by omega)]
        · rfl

theorem wfFrom_write {lo : Nat} {m : Memory} (hm : wfFrom lo m = true) {a : Nat} (hlo : lo ≤ a) (ha : a < Config.memSize)
    (u : Byte) : wfFrom lo (m.write a u) = true := by
  induction m generalizing lo with
  | nil => exact wfFrom_consCell hlo ha rfl
  | cons c rest ih =>
    obtain ⟨d, w⟩ := c
    have h := wfFrom_cons.1 hm
    simp only [write]
    split
    · exact wfFrom_consCell hlo ha (wfFrom_cons.2 ⟨by omega, h.2⟩)
    · split
      · rename_i heq; subst heq; exact wfFrom_consCell hlo ha h.2.2.2
      · exact wfFrom_cons.2 ⟨h.1, h.2.1, h.2.2.1, ih h.2.2.2 (by omega)⟩

/-- A write keeps the canonical form. -/
theorem wf_write {m : Memory} (hm : m.wf = true) {a : Nat} (ha : a < Config.memSize) (u : Byte) :
    (m.write a u).wf = true := wfFrom_write hm (Nat.zero_le _) ha u

/-- A store inside memory keeps the canonical form. -/
theorem wf_store {m : Memory} (hm : m.wf = true) {addr : Nat} {bytes : List Byte}
    (h : addr + bytes.length ≤ Config.memSize) : (m.store addr bytes).wf = true := by
  induction bytes generalizing m addr with
  | nil => exact hm
  | cons u rest ih =>
    simp only [List.length_cons] at h
    exact ih (wf_write hm (by omega) u) (by omega)

/-- Reading after a store: the stored byte inside, the old byte outside. -/
theorem byteAt_store {m : Memory} (hm : m.wf = true) {addr : Nat} {bytes : List Byte}
    (h : addr + bytes.length ≤ Config.memSize) (a : Nat) :
    (m.store addr bytes).byteAt a =
      if addr ≤ a ∧ a < addr + bytes.length then bytes.getD (a - addr) 0 else m.byteAt a := by
  induction bytes generalizing m addr with
  | nil => rw [if_neg (by simp)]; rfl
  | cons u rest ih =>
    simp only [List.length_cons] at h ⊢
    simp only [store]
    rw [ih (wf_write hm (by omega) u) (by omega), byteAt_write hm]
    by_cases h1 : a = addr
    · subst h1; simp
    · by_cases h2 : addr + 1 ≤ a ∧ a < addr + 1 + rest.length
      · rw [if_pos h2, if_pos (by omega)]
        obtain ⟨k, rfl⟩ : ∃ k, a = addr + 1 + k := ⟨a - (addr + 1), by omega⟩
        rw [show addr + 1 + k - addr = k + 1 by omega, show addr + 1 + k - (addr + 1) = k by omega]
        simp
      · rw [if_neg h2, if_neg h1, if_neg (by omega)]

@[simp] theorem length_bytes (m : Memory) (addr n : Nat) : (m.bytes addr n).length = n := by
  induction n generalizing addr with
  | zero => rfl
  | succ n ih => simp [bytes, ih]

theorem getElem_bytes (m : Memory) (addr n k : Nat) (h : k < (m.bytes addr n).length) :
    (m.bytes addr n)[k] = m.byteAt (addr + k) := by
  induction n generalizing addr k with
  | zero => simp [bytes] at h
  | succ n ih =>
    cases k with
    | zero => rfl
    | succ k =>
      simp only [bytes, List.getElem_cons_succ]
      rw [ih]
      congr 1
      omega

end Sys2Proof.Machine.Memory

namespace Sys2Proof.Machine

theorem inBounds_iff {addr n : Nat} : inBounds addr n = true ↔ n = 0 ∨ addr + n ≤ Config.memSize := by
  simp [inBounds]

/-- What `MemRead` answers, in both cases of its check (R53). -/
theorem memRead_eq_ok {m : Memory} {addr n : Nat} {bytes : List Byte} :
    memRead m addr n = .ok bytes ↔ (n = 0 ∨ addr + n ≤ Config.memSize) ∧ bytes = m.bytes addr n := by
  rw [← inBounds_iff]
  cases h : inBounds addr n
  · simp [memRead, h]
  · simp [memRead, h, eq_comm]

theorem memRead_eq_error {m : Memory} {addr n : Nat} {f : FaultRecord} :
    memRead m addr n = .error f ↔ ¬(n = 0 ∨ addr + n ≤ Config.memSize) ∧ f = boundsFault addr := by
  rw [← inBounds_iff]
  cases h : inBounds addr n
  · simp [memRead, h, eq_comm]
  · simp [memRead, h]

/-- What `MemWrite` answers, in both cases of its check (R53). -/
theorem memWrite_eq_ok {m m' : Memory} {addr : Nat} {bytes : List Byte} :
    memWrite m addr bytes = .ok m' ↔
      (bytes.length = 0 ∨ addr + bytes.length ≤ Config.memSize) ∧ m' = m.store addr bytes := by
  rw [← inBounds_iff]
  cases h : inBounds addr bytes.length
  · simp [memWrite, h]
  · simp [memWrite, h, eq_comm]

theorem memWrite_eq_error {m : Memory} {addr : Nat} {bytes : List Byte} {f : FaultRecord} :
    memWrite m addr bytes = .error f ↔
      ¬(bytes.length = 0 ∨ addr + bytes.length ≤ Config.memSize) ∧ f = boundsFault addr := by
  rw [← inBounds_iff]
  cases h : inBounds addr bytes.length
  · simp [memWrite, h, eq_comm]
  · simp [memWrite, h]

/-- `MemWrite` keeps the canonical form. -/
theorem wf_memWrite {m m' : Memory} {addr : Nat} {bytes : List Byte} (hm : m.wf = true)
    (h : memWrite m addr bytes = .ok m') : m'.wf = true := by
  obtain ⟨h1 | h1, rfl⟩ := memWrite_eq_ok.1 h
  · rw [List.length_eq_zero_iff.1 h1]; exact hm
  · exact Memory.wf_store hm h1

/-- What the fetch answers (R55, R161 part 4). -/
theorem fetchWord_eq_ok {m : Memory} {pc : Nat} {w : Word} :
    fetchWord m pc = .ok w ↔ pc + 1 < Config.memSize ∧ w = wordOfBytes (m.byteAt pc) (m.byteAt (pc + 1)) := by
  unfold fetchWord
  split <;> simp [*, eq_comm]

theorem fetchWord_eq_error {m : Memory} {pc : Nat} {f : FaultRecord} :
    fetchWord m pc = .error f ↔ ¬(pc + 1 < Config.memSize) ∧ f = boundsFault pc := by
  unfold fetchWord
  split <;> simp [*, eq_comm]

/-- The cells of an image are in canonical form. -/
theorem wfFrom_imageCells {lo a : Nat} {image : List Byte} (hlo : lo ≤ a) (h : a + image.length ≤ Config.memSize) :
    Memory.wfFrom lo (imageCells a image) = true := by
  induction image generalizing lo a with
  | nil => rfl
  | cons u rest ih =>
    simp only [List.length_cons] at h
    exact Memory.wfFrom_consCell hlo (by omega) (ih (Nat.le_refl _) (by omega))

/-- Memory after a reset lists nothing that is not canonical (R190). -/
theorem wf_resetWith (s : State) {image : List Byte} (h : imageFits image = true) : (s.resetWith image).mem.wf = true := by
  have : image.length ≤ 3584 := of_decide_eq_true h
  exact wfFrom_imageCells (Nat.zero_le _) (by simp only [Config.progBase, Config.memSize]; omega)

end Sys2Proof.Machine
end

