-- ==== Sys2Proof/Laws/State.lean ====
section
/-! SUPPORT. One lemma per field per update of the state, each true by `rfl`, so that no later proof unfolds a record update. -/

namespace Sys2Proof.Machine.State

variable (s : State)

/-! `setReg` -/

@[simp] theorem setReg_v (r : Reg) (u : Byte) : (s.setReg r u).v = s.v.set r.val u r.isLt := rfl
@[simp] theorem setReg_i (r : Reg) (u : Byte) : (s.setReg r u).i = s.i := rfl
@[simp] theorem setReg_pc (r : Reg) (u : Byte) : (s.setReg r u).pc = s.pc := rfl
@[simp] theorem setReg_stack (r : Reg) (u : Byte) : (s.setReg r u).stack = s.stack := rfl
@[simp] theorem setReg_sp (r : Reg) (u : Byte) : (s.setReg r u).sp = s.sp := rfl
@[simp] theorem setReg_dt (r : Reg) (u : Byte) : (s.setReg r u).dt = s.dt := rfl
@[simp] theorem setReg_st (r : Reg) (u : Byte) : (s.setReg r u).st = s.st := rfl
@[simp] theorem setReg_key (r : Reg) (u : Byte) : (s.setReg r u).key = s.key := rfl
@[simp] theorem setReg_wait (r : Reg) (u : Byte) : (s.setReg r u).wait = s.wait := rfl
@[simp] theorem setReg_fb (r : Reg) (u : Byte) : (s.setReg r u).fb = s.fb := rfl
@[simp] theorem setReg_mem (r : Reg) (u : Byte) : (s.setReg r u).mem = s.mem := rfl
@[simp] theorem setReg_fault (r : Reg) (u : Byte) : (s.setReg r u).fault = s.fault := rfl
@[simp] theorem setReg_hostSchedule (r : Reg) (u : Byte) : (s.setReg r u).hostSchedule = s.hostSchedule := rfl
@[simp] theorem setReg_draws (r : Reg) (u : Byte) : (s.setReg r u).draws = s.draws := rfl

/-! `setFlag` -/

@[simp] theorem setFlag_v (f : Byte) : (s.setFlag f).v = s.v.set flagReg.val f flagReg.isLt := rfl
@[simp] theorem setFlag_i (f : Byte) : (s.setFlag f).i = s.i := rfl
@[simp] theorem setFlag_pc (f : Byte) : (s.setFlag f).pc = s.pc := rfl
@[simp] theorem setFlag_stack (f : Byte) : (s.setFlag f).stack = s.stack := rfl
@[simp] theorem setFlag_sp (f : Byte) : (s.setFlag f).sp = s.sp := rfl
@[simp] theorem setFlag_dt (f : Byte) : (s.setFlag f).dt = s.dt := rfl
@[simp] theorem setFlag_st (f : Byte) : (s.setFlag f).st = s.st := rfl
@[simp] theorem setFlag_key (f : Byte) : (s.setFlag f).key = s.key := rfl
@[simp] theorem setFlag_wait (f : Byte) : (s.setFlag f).wait = s.wait := rfl
@[simp] theorem setFlag_fb (f : Byte) : (s.setFlag f).fb = s.fb := rfl
@[simp] theorem setFlag_mem (f : Byte) : (s.setFlag f).mem = s.mem := rfl
@[simp] theorem setFlag_fault (f : Byte) : (s.setFlag f).fault = s.fault := rfl
@[simp] theorem setFlag_hostSchedule (f : Byte) : (s.setFlag f).hostSchedule = s.hostSchedule := rfl
@[simp] theorem setFlag_draws (f : Byte) : (s.setFlag f).draws = s.draws := rfl

/-! `setI` -/

@[simp] theorem setI_v (a : Word) : (s.setI a).v = s.v := rfl
@[simp] theorem setI_i (a : Word) : (s.setI a).i = a := rfl
@[simp] theorem setI_pc (a : Word) : (s.setI a).pc = s.pc := rfl
@[simp] theorem setI_stack (a : Word) : (s.setI a).stack = s.stack := rfl
@[simp] theorem setI_sp (a : Word) : (s.setI a).sp = s.sp := rfl
@[simp] theorem setI_dt (a : Word) : (s.setI a).dt = s.dt := rfl
@[simp] theorem setI_st (a : Word) : (s.setI a).st = s.st := rfl
@[simp] theorem setI_key (a : Word) : (s.setI a).key = s.key := rfl
@[simp] theorem setI_wait (a : Word) : (s.setI a).wait = s.wait := rfl
@[simp] theorem setI_fb (a : Word) : (s.setI a).fb = s.fb := rfl
@[simp] theorem setI_mem (a : Word) : (s.setI a).mem = s.mem := rfl
@[simp] theorem setI_fault (a : Word) : (s.setI a).fault = s.fault := rfl
@[simp] theorem setI_hostSchedule (a : Word) : (s.setI a).hostSchedule = s.hostSchedule := rfl
@[simp] theorem setI_draws (a : Word) : (s.setI a).draws = s.draws := rfl
@[simp] theorem reg_setI (a : Word) (q : Reg) : (s.setI a).reg q = s.reg q := rfl

/-! `setPc` -/

@[simp] theorem setPc_v (a : Word) : (s.setPc a).v = s.v := rfl
@[simp] theorem setPc_i (a : Word) : (s.setPc a).i = s.i := rfl
@[simp] theorem setPc_pc (a : Word) : (s.setPc a).pc = a := rfl
@[simp] theorem setPc_stack (a : Word) : (s.setPc a).stack = s.stack := rfl
@[simp] theorem setPc_sp (a : Word) : (s.setPc a).sp = s.sp := rfl
@[simp] theorem setPc_dt (a : Word) : (s.setPc a).dt = s.dt := rfl
@[simp] theorem setPc_st (a : Word) : (s.setPc a).st = s.st := rfl
@[simp] theorem setPc_key (a : Word) : (s.setPc a).key = s.key := rfl
@[simp] theorem setPc_wait (a : Word) : (s.setPc a).wait = s.wait := rfl
@[simp] theorem setPc_fb (a : Word) : (s.setPc a).fb = s.fb := rfl
@[simp] theorem setPc_mem (a : Word) : (s.setPc a).mem = s.mem := rfl
@[simp] theorem setPc_fault (a : Word) : (s.setPc a).fault = s.fault := rfl
@[simp] theorem setPc_hostSchedule (a : Word) : (s.setPc a).hostSchedule = s.hostSchedule := rfl
@[simp] theorem setPc_draws (a : Word) : (s.setPc a).draws = s.draws := rfl
@[simp] theorem reg_setPc (a : Word) (q : Reg) : (s.setPc a).reg q = s.reg q := rfl

/-! `advance` -/

@[simp] theorem advance_v : (s.advance).v = s.v := rfl
@[simp] theorem advance_i : (s.advance).i = s.i := rfl
@[simp] theorem advance_pc : (s.advance).pc = s.pc + 2#16 := rfl
@[simp] theorem advance_stack : (s.advance).stack = s.stack := rfl
@[simp] theorem advance_sp : (s.advance).sp = s.sp := rfl
@[simp] theorem advance_dt : (s.advance).dt = s.dt := rfl
@[simp] theorem advance_st : (s.advance).st = s.st := rfl
@[simp] theorem advance_key : (s.advance).key = s.key := rfl
@[simp] theorem advance_wait : (s.advance).wait = s.wait := rfl
@[simp] theorem advance_fb : (s.advance).fb = s.fb := rfl
@[simp] theorem advance_mem : (s.advance).mem = s.mem := rfl
@[simp] theorem advance_fault : (s.advance).fault = s.fault := rfl
@[simp] theorem advance_hostSchedule : (s.advance).hostSchedule = s.hostSchedule := rfl
@[simp] theorem advance_draws : (s.advance).draws = s.draws := rfl
@[simp] theorem reg_advance (q : Reg) : (s.advance).reg q = s.reg q := rfl

/-! `skipIf` -/

@[simp] theorem skipIf_v (c : Bool) : (s.skipIf c).v = s.v := rfl
@[simp] theorem skipIf_i (c : Bool) : (s.skipIf c).i = s.i := rfl
@[simp] theorem skipIf_pc (c : Bool) : (s.skipIf c).pc = if c then s.pc + 4#16 else s.pc + 2#16 := rfl
@[simp] theorem skipIf_stack (c : Bool) : (s.skipIf c).stack = s.stack := rfl
@[simp] theorem skipIf_sp (c : Bool) : (s.skipIf c).sp = s.sp := rfl
@[simp] theorem skipIf_dt (c : Bool) : (s.skipIf c).dt = s.dt := rfl
@[simp] theorem skipIf_st (c : Bool) : (s.skipIf c).st = s.st := rfl
@[simp] theorem skipIf_key (c : Bool) : (s.skipIf c).key = s.key := rfl
@[simp] theorem skipIf_wait (c : Bool) : (s.skipIf c).wait = s.wait := rfl
@[simp] theorem skipIf_fb (c : Bool) : (s.skipIf c).fb = s.fb := rfl
@[simp] theorem skipIf_mem (c : Bool) : (s.skipIf c).mem = s.mem := rfl
@[simp] theorem skipIf_fault (c : Bool) : (s.skipIf c).fault = s.fault := rfl
@[simp] theorem skipIf_hostSchedule (c : Bool) : (s.skipIf c).hostSchedule = s.hostSchedule := rfl
@[simp] theorem skipIf_draws (c : Bool) : (s.skipIf c).draws = s.draws := rfl
@[simp] theorem reg_skipIf (c : Bool) (q : Reg) : (s.skipIf c).reg q = s.reg q := rfl

/-! `setDt` -/

@[simp] theorem setDt_v (u : Byte) : (s.setDt u).v = s.v := rfl
@[simp] theorem setDt_i (u : Byte) : (s.setDt u).i = s.i := rfl
@[simp] theorem setDt_pc (u : Byte) : (s.setDt u).pc = s.pc := rfl
@[simp] theorem setDt_stack (u : Byte) : (s.setDt u).stack = s.stack := rfl
@[simp] theorem setDt_sp (u : Byte) : (s.setDt u).sp = s.sp := rfl
@[simp] theorem setDt_dt (u : Byte) : (s.setDt u).dt = u := rfl
@[simp] theorem setDt_st (u : Byte) : (s.setDt u).st = s.st := rfl
@[simp] theorem setDt_key (u : Byte) : (s.setDt u).key = s.key := rfl
@[simp] theorem setDt_wait (u : Byte) : (s.setDt u).wait = s.wait := rfl
@[simp] theorem setDt_fb (u : Byte) : (s.setDt u).fb = s.fb := rfl
@[simp] theorem setDt_mem (u : Byte) : (s.setDt u).mem = s.mem := rfl
@[simp] theorem setDt_fault (u : Byte) : (s.setDt u).fault = s.fault := rfl
@[simp] theorem setDt_hostSchedule (u : Byte) : (s.setDt u).hostSchedule = s.hostSchedule := rfl
@[simp] theorem setDt_draws (u : Byte) : (s.setDt u).draws = s.draws := rfl
@[simp] theorem reg_setDt (u : Byte) (q : Reg) : (s.setDt u).reg q = s.reg q := rfl

/-! `setSt` -/

@[simp] theorem setSt_v (u : Byte) : (s.setSt u).v = s.v := rfl
@[simp] theorem setSt_i (u : Byte) : (s.setSt u).i = s.i := rfl
@[simp] theorem setSt_pc (u : Byte) : (s.setSt u).pc = s.pc := rfl
@[simp] theorem setSt_stack (u : Byte) : (s.setSt u).stack = s.stack := rfl
@[simp] theorem setSt_sp (u : Byte) : (s.setSt u).sp = s.sp := rfl
@[simp] theorem setSt_dt (u : Byte) : (s.setSt u).dt = s.dt := rfl
@[simp] theorem setSt_st (u : Byte) : (s.setSt u).st = u := rfl
@[simp] theorem setSt_key (u : Byte) : (s.setSt u).key = s.key := rfl
@[simp] theorem setSt_wait (u : Byte) : (s.setSt u).wait = s.wait := rfl
@[simp] theorem setSt_fb (u : Byte) : (s.setSt u).fb = s.fb := rfl
@[simp] theorem setSt_mem (u : Byte) : (s.setSt u).mem = s.mem := rfl
@[simp] theorem setSt_fault (u : Byte) : (s.setSt u).fault = s.fault := rfl
@[simp] theorem setSt_hostSchedule (u : Byte) : (s.setSt u).hostSchedule = s.hostSchedule := rfl
@[simp] theorem setSt_draws (u : Byte) : (s.setSt u).draws = s.draws := rfl
@[simp] theorem reg_setSt (u : Byte) (q : Reg) : (s.setSt u).reg q = s.reg q := rfl

/-! `setKey` -/

@[simp] theorem setKey_v (k : Key) (b : Bool) : (s.setKey k b).v = s.v := rfl
@[simp] theorem setKey_i (k : Key) (b : Bool) : (s.setKey k b).i = s.i := rfl
@[simp] theorem setKey_pc (k : Key) (b : Bool) : (s.setKey k b).pc = s.pc := rfl
@[simp] theorem setKey_stack (k : Key) (b : Bool) : (s.setKey k b).stack = s.stack := rfl
@[simp] theorem setKey_sp (k : Key) (b : Bool) : (s.setKey k b).sp = s.sp := rfl
@[simp] theorem setKey_dt (k : Key) (b : Bool) : (s.setKey k b).dt = s.dt := rfl
@[simp] theorem setKey_st (k : Key) (b : Bool) : (s.setKey k b).st = s.st := rfl
@[simp] theorem setKey_key (k : Key) (b : Bool) : (s.setKey k b).key = s.key.set k.val b k.isLt := rfl
@[simp] theorem setKey_wait (k : Key) (b : Bool) : (s.setKey k b).wait = s.wait := rfl
@[simp] theorem setKey_fb (k : Key) (b : Bool) : (s.setKey k b).fb = s.fb := rfl
@[simp] theorem setKey_mem (k : Key) (b : Bool) : (s.setKey k b).mem = s.mem := rfl
@[simp] theorem setKey_fault (k : Key) (b : Bool) : (s.setKey k b).fault = s.fault := rfl
@[simp] theorem setKey_hostSchedule (k : Key) (b : Bool) : (s.setKey k b).hostSchedule = s.hostSchedule := rfl
@[simp] theorem setKey_draws (k : Key) (b : Bool) : (s.setKey k b).draws = s.draws := rfl
@[simp] theorem reg_setKey (k : Key) (b : Bool) (q : Reg) : (s.setKey k b).reg q = s.reg q := rfl

/-! `setWait` -/

@[simp] theorem setWait_v (w : Option Reg) : (s.setWait w).v = s.v := rfl
@[simp] theorem setWait_i (w : Option Reg) : (s.setWait w).i = s.i := rfl
@[simp] theorem setWait_pc (w : Option Reg) : (s.setWait w).pc = s.pc := rfl
@[simp] theorem setWait_stack (w : Option Reg) : (s.setWait w).stack = s.stack := rfl
@[simp] theorem setWait_sp (w : Option Reg) : (s.setWait w).sp = s.sp := rfl
@[simp] theorem setWait_dt (w : Option Reg) : (s.setWait w).dt = s.dt := rfl
@[simp] theorem setWait_st (w : Option Reg) : (s.setWait w).st = s.st := rfl
@[simp] theorem setWait_key (w : Option Reg) : (s.setWait w).key = s.key := rfl
@[simp] theorem setWait_wait (w : Option Reg) : (s.setWait w).wait = w := rfl
@[simp] theorem setWait_fb (w : Option Reg) : (s.setWait w).fb = s.fb := rfl
@[simp] theorem setWait_mem (w : Option Reg) : (s.setWait w).mem = s.mem := rfl
@[simp] theorem setWait_fault (w : Option Reg) : (s.setWait w).fault = s.fault := rfl
@[simp] theorem setWait_hostSchedule (w : Option Reg) : (s.setWait w).hostSchedule = s.hostSchedule := rfl
@[simp] theorem setWait_draws (w : Option Reg) : (s.setWait w).draws = s.draws := rfl
@[simp] theorem reg_setWait (w : Option Reg) (q : Reg) : (s.setWait w).reg q = s.reg q := rfl

/-! `setFb` -/

@[simp] theorem setFb_v (f : FrameBuffer) : (s.setFb f).v = s.v := rfl
@[simp] theorem setFb_i (f : FrameBuffer) : (s.setFb f).i = s.i := rfl
@[simp] theorem setFb_pc (f : FrameBuffer) : (s.setFb f).pc = s.pc := rfl
@[simp] theorem setFb_stack (f : FrameBuffer) : (s.setFb f).stack = s.stack := rfl
@[simp] theorem setFb_sp (f : FrameBuffer) : (s.setFb f).sp = s.sp := rfl
@[simp] theorem setFb_dt (f : FrameBuffer) : (s.setFb f).dt = s.dt := rfl
@[simp] theorem setFb_st (f : FrameBuffer) : (s.setFb f).st = s.st := rfl
@[simp] theorem setFb_key (f : FrameBuffer) : (s.setFb f).key = s.key := rfl
@[simp] theorem setFb_wait (f : FrameBuffer) : (s.setFb f).wait = s.wait := rfl
@[simp] theorem setFb_fb (f : FrameBuffer) : (s.setFb f).fb = f := rfl
@[simp] theorem setFb_mem (f : FrameBuffer) : (s.setFb f).mem = s.mem := rfl
@[simp] theorem setFb_fault (f : FrameBuffer) : (s.setFb f).fault = s.fault := rfl
@[simp] theorem setFb_hostSchedule (f : FrameBuffer) : (s.setFb f).hostSchedule = s.hostSchedule := rfl
@[simp] theorem setFb_draws (f : FrameBuffer) : (s.setFb f).draws = s.draws := rfl
@[simp] theorem reg_setFb (f : FrameBuffer) (q : Reg) : (s.setFb f).reg q = s.reg q := rfl

/-! `setMem` -/

@[simp] theorem setMem_v (m : Memory) : (s.setMem m).v = s.v := rfl
@[simp] theorem setMem_i (m : Memory) : (s.setMem m).i = s.i := rfl
@[simp] theorem setMem_pc (m : Memory) : (s.setMem m).pc = s.pc := rfl
@[simp] theorem setMem_stack (m : Memory) : (s.setMem m).stack = s.stack := rfl
@[simp] theorem setMem_sp (m : Memory) : (s.setMem m).sp = s.sp := rfl
@[simp] theorem setMem_dt (m : Memory) : (s.setMem m).dt = s.dt := rfl
@[simp] theorem setMem_st (m : Memory) : (s.setMem m).st = s.st := rfl
@[simp] theorem setMem_key (m : Memory) : (s.setMem m).key = s.key := rfl
@[simp] theorem setMem_wait (m : Memory) : (s.setMem m).wait = s.wait := rfl
@[simp] theorem setMem_fb (m : Memory) : (s.setMem m).fb = s.fb := rfl
@[simp] theorem setMem_mem (m : Memory) : (s.setMem m).mem = m := rfl
@[simp] theorem setMem_fault (m : Memory) : (s.setMem m).fault = s.fault := rfl
@[simp] theorem setMem_hostSchedule (m : Memory) : (s.setMem m).hostSchedule = s.hostSchedule := rfl
@[simp] theorem setMem_draws (m : Memory) : (s.setMem m).draws = s.draws := rfl
@[simp] theorem reg_setMem (m : Memory) (q : Reg) : (s.setMem m).reg q = s.reg q := rfl

/-! `pushFrame` -/

@[simp] theorem pushFrame_v (a : Word) (h : s.sp.val < 16) : (s.pushFrame a h).v = s.v := rfl
@[simp] theorem pushFrame_i (a : Word) (h : s.sp.val < 16) : (s.pushFrame a h).i = s.i := rfl
@[simp] theorem pushFrame_pc (a : Word) (h : s.sp.val < 16) : (s.pushFrame a h).pc = s.pc := rfl
@[simp] theorem pushFrame_stack (a : Word) (h : s.sp.val < 16) : (s.pushFrame a h).stack = s.stack.set s.sp.val a h := rfl
@[simp] theorem pushFrame_sp (a : Word) (h : s.sp.val < 16) : (s.pushFrame a h).sp = ⟨s.sp.val + 1, by omega⟩ := rfl
@[simp] theorem pushFrame_dt (a : Word) (h : s.sp.val < 16) : (s.pushFrame a h).dt = s.dt := rfl
@[simp] theorem pushFrame_st (a : Word) (h : s.sp.val < 16) : (s.pushFrame a h).st = s.st := rfl
@[simp] theorem pushFrame_key (a : Word) (h : s.sp.val < 16) : (s.pushFrame a h).key = s.key := rfl
@[simp] theorem pushFrame_wait (a : Word) (h : s.sp.val < 16) : (s.pushFrame a h).wait = s.wait := rfl
@[simp] theorem pushFrame_fb (a : Word) (h : s.sp.val < 16) : (s.pushFrame a h).fb = s.fb := rfl
@[simp] theorem pushFrame_mem (a : Word) (h : s.sp.val < 16) : (s.pushFrame a h).mem = s.mem := rfl
@[simp] theorem pushFrame_fault (a : Word) (h : s.sp.val < 16) : (s.pushFrame a h).fault = s.fault := rfl
@[simp] theorem pushFrame_hostSchedule (a : Word) (h : s.sp.val < 16) : (s.pushFrame a h).hostSchedule = s.hostSchedule := rfl
@[simp] theorem pushFrame_draws (a : Word) (h : s.sp.val < 16) : (s.pushFrame a h).draws = s.draws := rfl
@[simp] theorem reg_pushFrame (a : Word) (h : s.sp.val < 16) (q : Reg) : (s.pushFrame a h).reg q = s.reg q := rfl

/-! `dropFrame` -/

@[simp] theorem dropFrame_v : (s.dropFrame).v = s.v := rfl
@[simp] theorem dropFrame_i : (s.dropFrame).i = s.i := rfl
@[simp] theorem dropFrame_pc : (s.dropFrame).pc = s.pc := rfl
@[simp] theorem dropFrame_stack : (s.dropFrame).stack = s.stack := rfl
@[simp] theorem dropFrame_sp : (s.dropFrame).sp = ⟨s.sp.val - 1, by omega⟩ := rfl
@[simp] theorem dropFrame_dt : (s.dropFrame).dt = s.dt := rfl
@[simp] theorem dropFrame_st : (s.dropFrame).st = s.st := rfl
@[simp] theorem dropFrame_key : (s.dropFrame).key = s.key := rfl
@[simp] theorem dropFrame_wait : (s.dropFrame).wait = s.wait := rfl
@[simp] theorem dropFrame_fb : (s.dropFrame).fb = s.fb := rfl
@[simp] theorem dropFrame_mem : (s.dropFrame).mem = s.mem := rfl
@[simp] theorem dropFrame_fault : (s.dropFrame).fault = s.fault := rfl
@[simp] theorem dropFrame_hostSchedule : (s.dropFrame).hostSchedule = s.hostSchedule := rfl
@[simp] theorem dropFrame_draws : (s.dropFrame).draws = s.draws := rfl
@[simp] theorem reg_dropFrame (q : Reg) : (s.dropFrame).reg q = s.reg q := rfl

/-! `countDraw` -/

@[simp] theorem countDraw_v : (s.countDraw).v = s.v := rfl
@[simp] theorem countDraw_i : (s.countDraw).i = s.i := rfl
@[simp] theorem countDraw_pc : (s.countDraw).pc = s.pc := rfl
@[simp] theorem countDraw_stack : (s.countDraw).stack = s.stack := rfl
@[simp] theorem countDraw_sp : (s.countDraw).sp = s.sp := rfl
@[simp] theorem countDraw_dt : (s.countDraw).dt = s.dt := rfl
@[simp] theorem countDraw_st : (s.countDraw).st = s.st := rfl
@[simp] theorem countDraw_key : (s.countDraw).key = s.key := rfl
@[simp] theorem countDraw_wait : (s.countDraw).wait = s.wait := rfl
@[simp] theorem countDraw_fb : (s.countDraw).fb = s.fb := rfl
@[simp] theorem countDraw_mem : (s.countDraw).mem = s.mem := rfl
@[simp] theorem countDraw_fault : (s.countDraw).fault = s.fault := rfl
@[simp] theorem countDraw_hostSchedule : (s.countDraw).hostSchedule = s.hostSchedule := rfl
@[simp] theorem countDraw_draws : (s.countDraw).draws = s.draws + 1 := rfl
@[simp] theorem reg_countDraw (q : Reg) : (s.countDraw).reg q = s.reg q := rfl

/-! `recordFault` -/

@[simp] theorem recordFault_v (f : FaultRecord) : (s.recordFault f).v = s.v := rfl
@[simp] theorem recordFault_i (f : FaultRecord) : (s.recordFault f).i = s.i := rfl
@[simp] theorem recordFault_pc (f : FaultRecord) : (s.recordFault f).pc = s.pc := rfl
@[simp] theorem recordFault_stack (f : FaultRecord) : (s.recordFault f).stack = s.stack := rfl
@[simp] theorem recordFault_sp (f : FaultRecord) : (s.recordFault f).sp = s.sp := rfl
@[simp] theorem recordFault_dt (f : FaultRecord) : (s.recordFault f).dt = s.dt := rfl
@[simp] theorem recordFault_st (f : FaultRecord) : (s.recordFault f).st = s.st := rfl
@[simp] theorem recordFault_key (f : FaultRecord) : (s.recordFault f).key = s.key := rfl
@[simp] theorem recordFault_wait (f : FaultRecord) : (s.recordFault f).wait = s.wait := rfl
@[simp] theorem recordFault_fb (f : FaultRecord) : (s.recordFault f).fb = s.fb := rfl
@[simp] theorem recordFault_mem (f : FaultRecord) : (s.recordFault f).mem = s.mem := rfl
@[simp] theorem recordFault_fault (f : FaultRecord) : (s.recordFault f).fault = some f := rfl
@[simp] theorem recordFault_hostSchedule (f : FaultRecord) : (s.recordFault f).hostSchedule = s.hostSchedule := rfl
@[simp] theorem recordFault_draws (f : FaultRecord) : (s.recordFault f).draws = s.draws := rfl
@[simp] theorem reg_recordFault (f : FaultRecord) (q : Reg) : (s.recordFault f).reg q = s.reg q := rfl

/-! `tickTimers` -/

@[simp] theorem tickTimers_v : (s.tickTimers).v = s.v := rfl
@[simp] theorem tickTimers_i : (s.tickTimers).i = s.i := rfl
@[simp] theorem tickTimers_pc : (s.tickTimers).pc = s.pc := rfl
@[simp] theorem tickTimers_stack : (s.tickTimers).stack = s.stack := rfl
@[simp] theorem tickTimers_sp : (s.tickTimers).sp = s.sp := rfl
@[simp] theorem tickTimers_dt : (s.tickTimers).dt = tick s.dt := rfl
@[simp] theorem tickTimers_st : (s.tickTimers).st = tick s.st := rfl
@[simp] theorem tickTimers_key : (s.tickTimers).key = s.key := rfl
@[simp] theorem tickTimers_wait : (s.tickTimers).wait = s.wait := rfl
@[simp] theorem tickTimers_fb : (s.tickTimers).fb = s.fb := rfl
@[simp] theorem tickTimers_mem : (s.tickTimers).mem = s.mem := rfl
@[simp] theorem tickTimers_fault : (s.tickTimers).fault = s.fault := rfl
@[simp] theorem tickTimers_hostSchedule : (s.tickTimers).hostSchedule = s.hostSchedule := rfl
@[simp] theorem tickTimers_draws : (s.tickTimers).draws = s.draws := rfl
@[simp] theorem reg_tickTimers (q : Reg) : (s.tickTimers).reg q = s.reg q := rfl

/-! `consumeEvent` -/

@[simp] theorem consumeEvent_v : (s.consumeEvent).v = s.v := rfl
@[simp] theorem consumeEvent_i : (s.consumeEvent).i = s.i := rfl
@[simp] theorem consumeEvent_pc : (s.consumeEvent).pc = s.pc := rfl
@[simp] theorem consumeEvent_stack : (s.consumeEvent).stack = s.stack := rfl
@[simp] theorem consumeEvent_sp : (s.consumeEvent).sp = s.sp := rfl
@[simp] theorem consumeEvent_dt : (s.consumeEvent).dt = s.dt := rfl
@[simp] theorem consumeEvent_st : (s.consumeEvent).st = s.st := rfl
@[simp] theorem consumeEvent_key : (s.consumeEvent).key = s.key := rfl
@[simp] theorem consumeEvent_wait : (s.consumeEvent).wait = s.wait := rfl
@[simp] theorem consumeEvent_fb : (s.consumeEvent).fb = s.fb := rfl
@[simp] theorem consumeEvent_mem : (s.consumeEvent).mem = s.mem := rfl
@[simp] theorem consumeEvent_fault : (s.consumeEvent).fault = s.fault := rfl
@[simp] theorem consumeEvent_hostSchedule : (s.consumeEvent).hostSchedule = s.hostSchedule.tail := rfl
@[simp] theorem consumeEvent_draws : (s.consumeEvent).draws = s.draws := rfl
@[simp] theorem reg_consumeEvent (q : Reg) : (s.consumeEvent).reg q = s.reg q := rfl

/-! Reading a register after a write -/

@[simp] theorem reg_setReg (r q : Reg) (u : Byte) : (s.setReg r u).reg q = if q = r then u else s.reg q := by
  simp only [reg, setReg, Vector.getElem_set, Fin.ext_iff, eq_comm]

@[simp] theorem reg_setFlag (q : Reg) (f : Byte) : (s.setFlag f).reg q = if q = flagReg then f else s.reg q :=
  reg_setReg s flagReg q f

theorem reg_setReg_self (r : Reg) (u : Byte) : (s.setReg r u).reg r = u := by simp

theorem reg_setReg_of_ne {r q : Reg} (u : Byte) (h : q ≠ r) : (s.setReg r u).reg q = s.reg q := by simp [h]

/-! Reading a key after a write -/

theorem key_setKey (k q : Key) (b : Bool) :
    (s.setKey k b).key[q.val] = if q = k then b else s.key[q.val] := by
  simp only [setKey, Vector.getElem_set, Fin.ext_iff, eq_comm]

end Sys2Proof.Machine.State
end

