-- ==== Sys2Proof/Laws/Operations.lean ====
section
/-! SUPPORT. One lemma for each shared operation that says what it can do, and the inversion of the step. -/

namespace Sys2Proof.Machine

/-! ### Operands and endings -/

theorem State.length_regBlock (s : State) (x : Reg) : (s.regBlock x).length = x.val + 1 := by
  have := x.isLt
  simp [State.regBlock]

theorem State.getD_regBlock (s : State) (x : Reg) {k : Nat} (h : k ≤ x.val) :
    (s.regBlock x).getD k 0 = s.reg ⟨k, by have := x.isLt; omega⟩ := by
  have hx := x.isLt
  simp [State.regBlock, State.reg, List.getD, Nat.lt_succ_of_le h]

theorem length_bcdDigits (u : Byte) : (bcdDigits u).length = 3 := rfl

/-- A block write to the registers changes the register file only. -/
theorem State.setRegsFrom_eq (s : State) (k : Nat) (bytes : List Byte) :
    s.setRegsFrom k bytes = { s with v := (s.setRegsFrom k bytes).v } := by
  induction bytes generalizing s k with
  | nil => rfl
  | cons u rest ih =>
    unfold State.setRegsFrom
    split
    · exact ih (s.setReg _ u) (k + 1)
    · rfl

/-- Reading a register after a block write: the block's byte inside, the old value outside. -/
theorem State.reg_setRegsFrom (s : State) (k : Nat) (bytes : List Byte) (q : Reg) :
    (s.setRegsFrom k bytes).reg q =
      if k ≤ q.val ∧ q.val < k + bytes.length then bytes.getD (q.val - k) 0 else s.reg q := by
  induction bytes generalizing s k with
  | nil => simp [State.setRegsFrom]
  | cons u rest ih =>
    have hq := q.isLt
    unfold State.setRegsFrom
    split
    · rename_i hk
      rw [ih]
      simp only [State.reg_setReg, List.length_cons, Fin.ext_iff]
      by_cases h1 : q.val = k
      · simp [h1]
      · by_cases h2 : k + 1 ≤ q.val ∧ q.val < k + 1 + rest.length
        · rw [if_pos h2, if_pos (by omega)]
          obtain ⟨j, hj⟩ : ∃ j, q.val = k + 1 + j := ⟨q.val - (k + 1), by omega⟩
          rw [hj, show k + 1 + j - k = j + 1 by omega, show k + 1 + j - (k + 1) = j by omega]
          simp
        · rw [if_neg h2, if_neg h1, if_neg (by omega)]
    · rename_i hk
      rw [if_neg (by omega)]

/-- What a store at `I` can answer (R53, R132, R134). -/
theorem storeAtI_cases (bytes : List Byte) (s : State) :
    (inBounds s.dataAddr bytes.length = true ∧
      storeAtI bytes s = .next (s.setMem (s.mem.store s.dataAddr bytes)).advance) ∨
    (inBounds s.dataAddr bytes.length = false ∧ storeAtI bytes s = takeFault (boundsFault s.dataAddr) s) := by
  cases h : inBounds s.dataAddr bytes.length
  · exact .inr ⟨rfl, by simp [storeAtI, memWrite, h]⟩
  · exact .inl ⟨rfl, by simp [storeAtI, memWrite, h]⟩

/-- A byte of memory after a store at `I` is the stored byte inside and the old byte outside. -/
theorem State.toNat_byteAt_storeAtI {s : State} (hm : s.mem.wf = true) {bytes : List Byte}
    (hb : s.dataAddr + bytes.length ≤ Config.memSize) {stored : Nat → Nat}
    (hs : ∀ k, k < bytes.length → (bytes.getD k 0).toNat = stored k) (a : Nat) :
    ((s.mem.store s.dataAddr bytes).byteAt a).toNat = s.byteAfterStore bytes.length stored a := by
  rw [Memory.byteAt_store hm hb]
  unfold State.byteAfterStore
  split
  · exact hs _ (by omega)
  · rfl

/-! ### Timers -/

@[simp] theorem tick_zero : tick 0#8 = 0#8 := rfl

theorem toNat_tick (t : Byte) : (tick t).toNat = t.toNat - 1 := by
  revert t; decide

/-! ### The frame buffer -/

@[simp] theorem FrameBuffer.pixel_clear (row : Fin 32) (col : Fin 64) : FrameBuffer.clear.pixel row col = false := by
  simp [FrameBuffer.pixel, FrameBuffer.clear]

/-- Toggling a pixel changes that pixel only (R147). -/
theorem FrameBuffer.pixel_toggle (f : FrameBuffer) (row row' : Fin 32) (col col' : Fin 64) :
    (f.toggle row col).pixel row' col' =
      if row' = row ∧ col' = col then !(f.pixel row col) else f.pixel row' col' := by
  by_cases hr : row' = row
  · subst hr
    by_cases hc : col' = col
    · subst hc; simp [FrameBuffer.toggle, FrameBuffer.pixel]
    · simp [FrameBuffer.toggle, FrameBuffer.pixel, hc, Fin.val_ne_iff.2 (Ne.symm hc)]
  · simp [FrameBuffer.toggle, FrameBuffer.pixel, hr, Fin.val_ne_iff.2 (Ne.symm hr)]

/-- The body of the blit loop, read pixel by pixel. -/
theorem pixel_blitPixel (bit : Bool) (row row' : Fin 32) (col col' : Fin 64) (acc : FrameBuffer × Bool) :
    (blitPixel bit row col acc).1.pixel row' col' =
      (acc.1.pixel row' col' ^^ (bit && decide (row' = row ∧ col' = col))) := by
  unfold blitPixel
  cases bit
  · simp
  · by_cases h : row' = row ∧ col' = col
    · obtain ⟨rfl, rfl⟩ := h; simp [FrameBuffer.pixel_toggle]
    · simp [FrameBuffer.pixel_toggle, h]

theorem collision_blitPixel (bit : Bool) (row : Fin 32) (col : Fin 64) (acc : FrameBuffer × Bool) :
    (blitPixel bit row col acc).2 = (acc.2 || (bit && acc.1.pixel row col)) := by
  unfold blitPixel
  cases bit <;> simp

/-! ### Events -/

/-- A key press, in both cases of the wait (R153). -/
theorem State.keyPress_cases (s : State) (k : Key) :
    (s.wait = none ∧ s.keyPress k = s.setKey k true) ∨
    (∃ r, s.wait = some r ∧ s.keyPress k = ((s.setKey k true).setReg r (zext8 k)).setWait none) := by
  cases h : s.wait with
  | none => exact .inl ⟨rfl, by simp [State.keyPress, h]⟩
  | some r => exact .inr ⟨r, rfl, by simp [State.keyPress, h]⟩

@[simp] theorem State.nextEvent_of_nil {s : State} (h : s.hostSchedule = []) : s.nextEvent = .step := by
  simp [State.nextEvent, h]

theorem State.nextEvent_of_cons {s : State} {e : Event} {rest : List Event} (h : s.hostSchedule = e :: rest) :
    s.nextEvent = e := by
  simp [State.nextEvent, h]

/-! ### The step -/

/-- Everything a `Step` event can do (R161), its guards included. -/
theorem stepEvent_cases (s : State) :
    (s.fault ≠ none ∧ stepEvent s = .next s) ∨
    (s.fault = none ∧ s.wait ≠ none ∧ stepEvent s = .next s.tickTimers) ∨
    (s.fault = none ∧ s.wait = none ∧ ¬(s.pc.toNat + 1 < Config.memSize) ∧
      stepEvent s = takeFault (boundsFault s.pc.toNat) s.tickTimers) ∨
    (∃ w e, s.fault = none ∧ s.wait = none ∧ fetchWord s.mem s.pc.toNat = .ok w ∧ decodeWord w = .error e ∧
      stepEvent s = takeFault (.decodeError w) s.tickTimers) ∨
    (∃ w i, s.fault = none ∧ s.wait = none ∧ fetchWord s.mem s.pc.toNat = .ok w ∧ decodeWord w = .ok i ∧
      stepEvent s = exec i s.tickTimers) := by
  cases hf : s.fault with
  | some f => exact .inl ⟨by simp, by simp [stepEvent, hf]⟩
  | none =>
    refine .inr ?_
    cases hw : s.wait with
    | some r => exact .inl ⟨rfl, by simp, by simp [stepEvent, hf, hw]⟩
    | none =>
      refine .inr ?_
      have hs : stepEvent s = fetchDecodeExecute s.tickTimers := by simp [stepEvent, hf, hw]
      rw [hs]
      cases hx : fetchWord s.mem s.pc.toNat with
      | error f =>
        obtain ⟨h1, rfl⟩ := fetchWord_eq_error.1 hx
        exact .inl ⟨rfl, rfl, h1, by simp [fetchDecodeExecute, hx]⟩
      | ok w =>
        refine .inr ?_
        cases hd : decodeWord w with
        | error e => exact .inl ⟨w, e, rfl, rfl, rfl, hd, by simp [fetchDecodeExecute, hx, hd]⟩
        | ok i => exact .inr ⟨w, i, rfl, rfl, rfl, hd, by simp [fetchDecodeExecute, hx, hd]⟩

/-- Everything one step of the model can do: the four events (R160). -/
theorem step_cases (s : State) :
    (s.nextEvent = .step ∧ step s = stepEvent s.consumeEvent) ∨
    (∃ k, s.nextEvent = .keyPress k ∧ step s = .next (s.consumeEvent.keyPress k)) ∨
    (∃ k, s.nextEvent = .keyRelease k ∧ step s = .next (s.consumeEvent.keyRelease k)) ∨
    (∃ image, s.nextEvent = .reset image ∧ step s = resetEvent image s.consumeEvent) := by
  cases h : s.nextEvent with
  | step => exact .inl ⟨rfl, by simp [step, handleEvent, h]⟩
  | keyPress k => exact .inr (.inl ⟨k, rfl, by simp [step, handleEvent, h]⟩)
  | keyRelease k => exact .inr (.inr (.inl ⟨k, rfl, by simp [step, handleEvent, h]⟩))
  | reset image => exact .inr (.inr (.inr ⟨image, rfl, by simp [step, handleEvent, h]⟩))

end Sys2Proof.Machine
end

