-- ==== Sys2Proof/Laws/PerInstr.lean ====
section
/-! SUPPORT. Statements made per instruction. The family `EncodeMatchesRow`: the encoding of an operation is selected by the
operation's own row of spec/30_encoding.md R75, whatever its operands. -/

namespace Sys2Proof.Laws.EncodeMatchesRow

/-- The encoding lies in the instruction's own row: `encode i AND mask = match` (R75, R80). -/
def Statement (i : Instr) : Prop := encode i &&& i.row.mask = i.row.pattern

/-- Placed operands under a mask that gives them no bits leave the row's pattern. -/
theorem of_fields {pattern mask bits : Word} (h : bits &&& mask = 0#16) (hp : pattern &&& mask = pattern) :
    (pattern ||| bits) &&& mask = pattern := by
  rw [BitVec.and_or_distrib_right, h, hp, BitVec.or_zero]

theorem or_and_zero {a b mask : Word} (ha : a &&& mask = 0#16) (hb : b &&& mask = 0#16) : (a ||| b) &&& mask = 0#16 := by
  rw [BitVec.and_or_distrib_right, ha, hb]; rfl

/-- A row's pattern lies under its mask. -/
theorem pattern_masked (i : Instr) : i.row.pattern &&& i.row.mask = i.row.pattern := by
  cases i <;> simp only [Instr.row] <;> decide

theorem cls : Statement (.cls) := rfl
theorem ret : Statement (.ret) := rfl
theorem jp (nnn : Imm12) : Statement (.jp nnn) :=
  of_fields (zextImm_opMask nnn) (pattern_masked _)
theorem call (nnn : Imm12) : Statement (.call nnn) :=
  of_fields (zextImm_opMask nnn) (pattern_masked _)
theorem seImm (x : Reg) (kk : Byte) : Statement (.seImm x kk) :=
  of_fields (or_and_zero (placeX_opMask x) (zext16_opMask kk)) (pattern_masked _)
theorem sneImm (x : Reg) (kk : Byte) : Statement (.sneImm x kk) :=
  of_fields (or_and_zero (placeX_opMask x) (zext16_opMask kk)) (pattern_masked _)
theorem seReg (x : Reg) (y : Reg) : Statement (.seReg x y) :=
  of_fields (or_and_zero (placeX_subMask x) (placeY_subMask y)) (pattern_masked _)
theorem ldImm (x : Reg) (kk : Byte) : Statement (.ldImm x kk) :=
  of_fields (or_and_zero (placeX_opMask x) (zext16_opMask kk)) (pattern_masked _)
theorem addImm (x : Reg) (kk : Byte) : Statement (.addImm x kk) :=
  of_fields (or_and_zero (placeX_opMask x) (zext16_opMask kk)) (pattern_masked _)
theorem ldReg (x : Reg) (y : Reg) : Statement (.ldReg x y) :=
  of_fields (or_and_zero (placeX_subMask x) (placeY_subMask y)) (pattern_masked _)
theorem orReg (x : Reg) (y : Reg) : Statement (.orReg x y) :=
  of_fields (or_and_zero (placeX_subMask x) (placeY_subMask y)) (pattern_masked _)
theorem andReg (x : Reg) (y : Reg) : Statement (.andReg x y) :=
  of_fields (or_and_zero (placeX_subMask x) (placeY_subMask y)) (pattern_masked _)
theorem xorReg (x : Reg) (y : Reg) : Statement (.xorReg x y) :=
  of_fields (or_and_zero (placeX_subMask x) (placeY_subMask y)) (pattern_masked _)
theorem addReg (x : Reg) (y : Reg) : Statement (.addReg x y) :=
  of_fields (or_and_zero (placeX_subMask x) (placeY_subMask y)) (pattern_masked _)
theorem sub (x : Reg) (y : Reg) : Statement (.sub x y) :=
  of_fields (or_and_zero (placeX_subMask x) (placeY_subMask y)) (pattern_masked _)
theorem shr (x : Reg) (y : Reg) : Statement (.shr x y) :=
  of_fields (or_and_zero (placeX_subMask x) (placeY_subMask y)) (pattern_masked _)
theorem subn (x : Reg) (y : Reg) : Statement (.subn x y) :=
  of_fields (or_and_zero (placeX_subMask x) (placeY_subMask y)) (pattern_masked _)
theorem shl (x : Reg) (y : Reg) : Statement (.shl x y) :=
  of_fields (or_and_zero (placeX_subMask x) (placeY_subMask y)) (pattern_masked _)
theorem sneReg (x : Reg) (y : Reg) : Statement (.sneReg x y) :=
  of_fields (or_and_zero (placeX_subMask x) (placeY_subMask y)) (pattern_masked _)
theorem ldI (nnn : Imm12) : Statement (.ldI nnn) :=
  of_fields (zextImm_opMask nnn) (pattern_masked _)
theorem jpV0 (nnn : Imm12) : Statement (.jpV0 nnn) :=
  of_fields (zextImm_opMask nnn) (pattern_masked _)
theorem rnd (x : Reg) (kk : Byte) : Statement (.rnd x kk) :=
  of_fields (or_and_zero (placeX_opMask x) (zext16_opMask kk)) (pattern_masked _)
theorem drw (x : Reg) (y : Reg) (n : RowCount) : Statement (.drw x y n) :=
  of_fields (or_and_zero (or_and_zero (placeX_opMask x) (placeY_opMask y)) (placeN_opMask n)) (pattern_masked _)
theorem skp (x : Reg) : Statement (.skp x) :=
  of_fields (placeX_byteMask x) (pattern_masked _)
theorem sknp (x : Reg) : Statement (.sknp x) :=
  of_fields (placeX_byteMask x) (pattern_masked _)
theorem ldVxDT (x : Reg) : Statement (.ldVxDT x) :=
  of_fields (placeX_byteMask x) (pattern_masked _)
theorem ldVxK (x : Reg) : Statement (.ldVxK x) :=
  of_fields (placeX_byteMask x) (pattern_masked _)
theorem ldDTVx (x : Reg) : Statement (.ldDTVx x) :=
  of_fields (placeX_byteMask x) (pattern_masked _)
theorem ldSTVx (x : Reg) : Statement (.ldSTVx x) :=
  of_fields (placeX_byteMask x) (pattern_masked _)
theorem addI (x : Reg) : Statement (.addI x) :=
  of_fields (placeX_byteMask x) (pattern_masked _)
theorem ldF (x : Reg) : Statement (.ldF x) :=
  of_fields (placeX_byteMask x) (pattern_masked _)
theorem ldB (x : Reg) : Statement (.ldB x) :=
  of_fields (placeX_byteMask x) (pattern_masked _)
theorem ldMemVx (x : Reg) : Statement (.ldMemVx x) :=
  of_fields (placeX_byteMask x) (pattern_masked _)
theorem ldVxMem (x : Reg) : Statement (.ldVxMem x) :=
  of_fields (placeX_byteMask x) (pattern_masked _)

end Sys2Proof.Laws.EncodeMatchesRow
end

