-- ==== Sys2Proof/Tests/Slice0.lean ====
section
/-! SUPPORT. The model's own tests: the operand and image checks, one decoded word per row of the opcode map written out from
spec/30_encoding.md R75, single steps whose results are those of spec/95_test_vectors.md, and a witness for the hypotheses
of every statement that has some. -/

namespace Sys2Proof.Tests

open Sys2Proof Sys2Proof.Machine

/-! ### Helpers -/

/-- The answer is a next state that meets the test. -/
def onNext (o : StepResult) (p : State → Bool) : Bool :=
  match o with
  | .next t => p t
  | _ => false

/-- The reset state with a word placed at 0x200. -/
def start (w : Nat) : State := State.reset.withFetchWord 16 w

/-- The reset state with a word placed at 0x200 and two registers set. -/
def start2 (w : Nat) (r : Reg) (a : Byte) (q : Reg) (b : Byte) : State := ((start w).setReg r a).setReg q b

/-- The pixels that are set, as (column, row). -/
def setPixels (f : FrameBuffer) : List (Nat × Nat) :=
  (List.finRange 32).flatMap fun r => ((List.finRange 64).filter fun c => f.pixel r c).map fun c => (c.val, r.val)

/-! ### The checks of WellFormed.lean -/

/-- An image one byte too long is refused by the check (R191, F10 of the test vectors). -/
theorem test_imageFits_refuses_3585 : imageFits (List.replicate 3585 0#8) = false := by
  rw [imageFits, List.length_replicate]; decide

theorem test_imageFits_accepts_3584 : imageFits (List.replicate 3584 0#8) = true := by
  rw [imageFits, List.length_replicate]; decide

/-- The operand ranges of R73 have no ill-formed term: the largest operands are legal, in every format. -/
theorem test_wellFormed_largest_operands :
    ([.jp 0xFFF#12, .seImm 15 0xFF#8, .addReg 15 15, .drw 15 15 15, .ldVxMem 15] : List Instr).all
      (fun i => i.wellFormed) = true := by decide

/-! ### Decoding, one word per row of R75, and the decode failures of the test vectors -/

theorem test_decode_cls : decodeTableWord 16 0x00E0 = some (.cls) := by decide
theorem test_decode_ret : decodeTableWord 16 0x00EE = some (.ret) := by decide
theorem test_decode_jp : decodeTableWord 16 0x1ABC = some (.jp 0xABC#12) := by decide
theorem test_decode_call : decodeTableWord 16 0x2ABC = some (.call 0xABC#12) := by decide
theorem test_decode_seImm : decodeTableWord 16 0x3A42 = some (.seImm 0xA 0x42#8) := by decide
theorem test_decode_sneImm : decodeTableWord 16 0x4A42 = some (.sneImm 0xA 0x42#8) := by decide
theorem test_decode_seReg : decodeTableWord 16 0x5AB0 = some (.seReg 0xA 0xB) := by decide
theorem test_decode_ldImm : decodeTableWord 16 0x6A42 = some (.ldImm 0xA 0x42#8) := by decide
theorem test_decode_addImm : decodeTableWord 16 0x7A42 = some (.addImm 0xA 0x42#8) := by decide
theorem test_decode_ldReg : decodeTableWord 16 0x8AB0 = some (.ldReg 0xA 0xB) := by decide
theorem test_decode_orReg : decodeTableWord 16 0x8AB1 = some (.orReg 0xA 0xB) := by decide
theorem test_decode_andReg : decodeTableWord 16 0x8AB2 = some (.andReg 0xA 0xB) := by decide
theorem test_decode_xorReg : decodeTableWord 16 0x8AB3 = some (.xorReg 0xA 0xB) := by decide
theorem test_decode_addReg : decodeTableWord 16 0x8AB4 = some (.addReg 0xA 0xB) := by decide
theorem test_decode_sub : decodeTableWord 16 0x8AB5 = some (.sub 0xA 0xB) := by decide
theorem test_decode_shr : decodeTableWord 16 0x8AB6 = some (.shr 0xA 0xB) := by decide
theorem test_decode_subn : decodeTableWord 16 0x8AB7 = some (.subn 0xA 0xB) := by decide
theorem test_decode_shl : decodeTableWord 16 0x8ABE = some (.shl 0xA 0xB) := by decide
theorem test_decode_sneReg : decodeTableWord 16 0x9AB0 = some (.sneReg 0xA 0xB) := by decide
theorem test_decode_ldI : decodeTableWord 16 0xAABC = some (.ldI 0xABC#12) := by decide
theorem test_decode_jpV0 : decodeTableWord 16 0xBABC = some (.jpV0 0xABC#12) := by decide
theorem test_decode_rnd : decodeTableWord 16 0xCA42 = some (.rnd 0xA 0x42#8) := by decide
theorem test_decode_drw : decodeTableWord 16 0xDAB5 = some (.drw 0xA 0xB 5) := by decide
theorem test_decode_skp : decodeTableWord 16 0xEA9E = some (.skp 0xA) := by decide
theorem test_decode_sknp : decodeTableWord 16 0xEAA1 = some (.sknp 0xA) := by decide
theorem test_decode_ldVxDT : decodeTableWord 16 0xFA07 = some (.ldVxDT 0xA) := by decide
theorem test_decode_ldVxK : decodeTableWord 16 0xFA0A = some (.ldVxK 0xA) := by decide
theorem test_decode_ldDTVx : decodeTableWord 16 0xFA15 = some (.ldDTVx 0xA) := by decide
theorem test_decode_ldSTVx : decodeTableWord 16 0xFA18 = some (.ldSTVx 0xA) := by decide
theorem test_decode_addI : decodeTableWord 16 0xFA1E = some (.addI 0xA) := by decide
theorem test_decode_ldF : decodeTableWord 16 0xFA29 = some (.ldF 0xA) := by decide
theorem test_decode_ldB : decodeTableWord 16 0xFA33 = some (.ldB 0xA) := by decide
theorem test_decode_ldMemVx : decodeTableWord 16 0xFA55 = some (.ldMemVx 0xA) := by decide
theorem test_decode_ldVxMem : decodeTableWord 16 0xFA65 = some (.ldVxMem 0xA) := by decide

/-- Words that are no operation, one or more of each class of R77. -/
theorem test_decode_failures :
    [0x0000, 0x00E1, 0x00EF, 0x01E0, 0x0123, 0x5AB1, 0x8AB8, 0x8ABF, 0x9AB1, 0xEA9F, 0xEAA0, 0xFA00, 0xFA1F, 0xFA75].all
      (fun w => decodeTableWord 16 w == none) = true := by decide

/-- Too few bytes are refused by name. -/
theorem test_decodeBytes_short : decodeBytes [0x12#8] = .error .tooFewBytes := by decide

/-- Only the first two bytes are the instruction (R70). -/
theorem test_decodeBytes_rest : decodeBytes [0x12#8, 0x34#8, 0x56#8] = .ok (.jp 0x234#12, [0x56#8]) := by decide

/-- S2 of the test vectors: the unused `y` of a shift is carried. -/
theorem test_encode : encode (.drw 1 2 5) = 0xD125#16 ∧ encode (.shr 1 9) = 0x8196#16 := by decide

/-! ### Single steps (spec/95_test_vectors.md) -/

theorem test_cls :
    onNext (step ({ start2 0x00E0 15 0x55 0 0 with fb := FrameBuffer.clear.toggle 3 5 })) (fun t => !(t.fb.pixel 3 5) && t.reg 15 == 0x55#8 && t.pc == 0x202#16) = true := by decide

theorem test_ret :
    onNext (step ({ start 0x00EE with sp := 2, stack := State.reset.stack.set 1 0x0ABC })) (fun t => t.pc == 0x0ABC#16 && t.sp == 1) = true := by decide

theorem test_ret_underflow :
    onNext (step (start 0x00EE)) (fun t => t.fault == some (.stackError .underflow) && t.pc == 0x200#16) = true := by decide

theorem test_jp :
    onNext (step (start 0x1204)) (fun t => t.pc == 0x204#16) = true := by decide

theorem test_call :
    onNext (step ({ start 0x2300 with sp := 15 })) (fun t => t.stack[15] == 0x202#16 && t.sp == 16 && t.pc == 0x300#16) = true := by decide

theorem test_call_overflow :
    onNext (step ({ start 0x2300 with sp := 16 })) (fun t => t.fault == some (.stackError .overflow) && t.pc == 0x200#16) = true := by decide

theorem test_seImm_equal :
    onNext (step (start 0x3100)) (fun t => t.pc == 0x204#16) = true := by decide

theorem test_seImm_differs :
    onNext (step (start2 0x3100 1 1 2 0)) (fun t => t.pc == 0x202#16) = true := by decide

theorem test_sneImm_equal :
    onNext (step (start 0x4100)) (fun t => t.pc == 0x202#16) = true := by decide

theorem test_sneImm_differs :
    onNext (step (start2 0x4100 1 1 2 0)) (fun t => t.pc == 0x204#16) = true := by decide

theorem test_seReg_equal :
    onNext (step (start2 0x5120 1 0x7F 2 0x7F)) (fun t => t.pc == 0x204#16) = true := by decide

theorem test_seReg_differs :
    onNext (step (start2 0x5120 1 1 2 2)) (fun t => t.pc == 0x202#16) = true := by decide

theorem test_ldImm :
    onNext (step (start2 0x6142 15 0x55 0 0)) (fun t => t.reg 1 == 0x42#8 && t.reg 15 == 0x55#8) = true := by decide

theorem test_addImm_wraps_without_flag :
    onNext (step (start2 0x7101 1 0xFF 15 0x55)) (fun t => t.reg 1 == 0#8 && t.reg 15 == 0x55#8) = true := by decide

theorem test_ldReg :
    onNext (step (start2 0x8120 1 1 2 0xAB)) (fun t => t.reg 1 == 0xAB#8 && t.reg 2 == 0xAB#8) = true := by decide

theorem test_orReg :
    onNext (step ((start2 0x8121 1 0xF0 2 0x0F).setReg 15 0x55)) (fun t => t.reg 1 == 0xFF#8 && t.reg 15 == 0x55#8) = true := by decide

theorem test_andReg :
    onNext (step (start2 0x8122 1 0xF3 2 0x3C)) (fun t => t.reg 1 == 0x30#8 && t.reg 2 == 0x3C#8) = true := by decide

theorem test_xorReg :
    onNext (step (start2 0x8123 1 0xFF 2 0x0F)) (fun t => t.reg 1 == 0xF0#8 && t.reg 2 == 0x0F#8) = true := by decide

/-- S3 of the test vectors. -/
theorem test_addReg :
    onNext (step (start2 0x8124 1 250 2 10)) (fun t => t.reg 1 == 4#8 && t.reg 15 == 1#8) = true := by decide

/-- The sum remains in `VF` (R110). -/
theorem test_addReg_result_in_flag_register :
    onNext (step (start2 0x8F24 15 0xFA 2 0x0A)) (fun t => t.reg 15 == 4#8) = true := by decide

/-- S4 of the test vectors. -/
theorem test_sub :
    onNext (step (start2 0x8125 1 10 2 250)) (fun t => t.reg 1 == 16#8 && t.reg 15 == 0#8) = true := by decide

theorem test_sub_equal :
    onNext (step (start2 0x8125 1 7 2 7)) (fun t => t.reg 1 == 0#8 && t.reg 15 == 1#8) = true := by decide

/-- S5 of the test vectors; `V2` is ignored. -/
theorem test_shr :
    onNext (step (start2 0x8126 1 3 2 0x99)) (fun t => t.reg 1 == 1#8 && t.reg 15 == 1#8 && t.reg 2 == 0x99#8) = true := by decide

theorem test_shr_flag_register :
    onNext (step (start2 0x8F26 15 3 2 0)) (fun t => t.reg 15 == 1#8) = true := by decide

theorem test_subn :
    onNext (step (start2 0x8127 1 10 2 250)) (fun t => t.reg 1 == 240#8 && t.reg 15 == 1#8) = true := by decide

theorem test_subn_borrow :
    onNext (step (start2 0x8127 1 250 2 10)) (fun t => t.reg 1 == 16#8 && t.reg 15 == 0#8) = true := by decide

theorem test_shl :
    onNext (step (start2 0x812E 1 0x81 2 0x99)) (fun t => t.reg 1 == 2#8 && t.reg 15 == 1#8) = true := by decide

theorem test_shl_flag_register :
    onNext (step (start2 0x8F2E 15 0xC0 2 0)) (fun t => t.reg 15 == 0x80#8) = true := by decide

theorem test_sneReg_differs :
    onNext (step (start2 0x9120 1 1 2 2)) (fun t => t.pc == 0x204#16) = true := by decide

theorem test_sneReg_equal :
    onNext (step (start2 0x9120 1 9 2 9)) (fun t => t.pc == 0x202#16) = true := by decide

theorem test_ldI :
    onNext (step ({ start 0xAFFF with i := 0xFFFF })) (fun t => t.i == 0x0FFF#16) = true := by decide

theorem test_jpV0 :
    onNext (step ((start 0xBFFF).setReg 0 0xFF)) (fun t => t.pc == 0x10FE#16) = true := by decide

/-- The byte itself is free, so the test is of what is certain: one draw is consumed and `PC` advances. -/
theorem test_rnd_draws_once :
    onNext (step (start 0xC100)) (fun t => t.reg 2 == 0#8 && t.draws == 1 && t.pc == 0x202#16) = true := by decide

theorem test_drw_wraps_both_edges :
    onNext (step ({ start2 0xD122 1 0x7D 2 0x7F with i := 0x300, mem := (start 0xD122).mem.store 0x300 [0xC3, 0x81] })) (fun t => setPixels t.fb == [(4, 0), (61, 0), (3, 31), (4, 31), (61, 31), (62, 31)] && t.reg 15 == 0#8) = true := by decide

theorem test_drw_collides :
    onNext (step ({ start2 0xD001 0 0 15 0 with i := 0x300, mem := (start 0xD001).mem.store 0x300 [0xF0], fb := (FrameBuffer.clear.toggle 0 3).toggle 0 4 })) (fun t => setPixels t.fb == [(0, 0), (1, 0), (2, 0), (4, 0)] && t.reg 15 == 1#8) = true := by decide

theorem test_skp_low_nibble :
    onNext (step ({ start2 0xE19E 1 0x15 0 0 with key := State.reset.key.set 5 true })) (fun t => t.pc == 0x204#16) = true := by decide

theorem test_sknp :
    onNext (step ({ start2 0xE1A1 1 5 0 0 with key := State.reset.key.set 5 true })) (fun t => t.pc == 0x202#16) = true := by decide

theorem test_ldVxDT_reads_after_decrement :
    onNext (step ({ start 0xF207 with dt := 3 })) (fun t => t.reg 2 == 2#8 && t.dt == 2#8) = true := by decide

theorem test_ldVxK :
    onNext (step ((start 0xF30A).setReg 3 0x77)) (fun t => t.wait == some 3 && t.reg 3 == 0x77#8 && t.pc == 0x202#16) = true := by decide

theorem test_ldDTVx :
    onNext (step ({ start2 0xF015 0 9 1 0 with dt := 5 })) (fun t => t.dt == 9#8) = true := by decide

theorem test_ldSTVx :
    onNext (step (start2 0xF418 4 0x10 0 0)) (fun t => t.st == 0x10#8) = true := by decide

theorem test_addI_wraps :
    onNext (step ({ start2 0xF21E 2 2 15 0x55 with i := 0xFFFF })) (fun t => t.i == 1#16 && t.reg 15 == 0x55#8) = true := by decide

theorem test_ldF_low_nibble :
    onNext (step (start2 0xF329 3 0x1A 0 0)) (fun t => t.i == 0x032#16) = true := by decide

theorem test_ldB :
    onNext (step ({ start2 0xF033 0 254 1 0 with i := 0xFFD })) (fun t => t.mem.bytes 0xFFD 3 == [2, 5, 4] && t.i == 0xFFD#16) = true := by decide

theorem test_ldB_fault :
    onNext (step ({ start2 0xF033 0 254 1 0 with i := 0xFFE })) (fun t => t.fault == some (.memoryBounds 0x1000) && t.mem.bytes 0xFFE 2 == [0, 0] && t.pc == 0x200#16) = true := by decide

theorem test_ldMemVx :
    onNext (step ({ (start2 0xF255 0 1 1 2).setReg 2 3 with i := 0x300 })) (fun t => t.mem.bytes 0x300 4 == [1, 2, 3, 0] && t.i == 0x300#16) = true := by decide

theorem test_ldMemVx_fault :
    onNext (step ({ (start2 0xF255 0 1 1 2).setReg 2 3 with i := 0xFFE })) (fun t => t.fault == some (.memoryBounds 0x1000) && t.mem.bytes 0xFFE 2 == [0, 0]) = true := by decide

theorem test_ldVxMem_reads_font :
    onNext (step ({ start2 0xF265 3 7 4 0 with i := 0 })) (fun t => t.v.toList.take 4 == [0xF0, 0x90, 0x90, 7]) = true := by decide

theorem test_ldVxMem_fault :
    onNext (step ({ start 0xF065 with i := 0xFFFF })) (fun t => t.fault == some (.memoryBounds 0xFFFF)) = true := by decide

theorem test_fetch_fault :
    onNext (step ({ State.reset with pc := 0xFFF })) (fun t => t.fault == some (.memoryBounds 0x1000) && t.pc == 0xFFF#16) = true := by decide

/-- F8 of the test vectors. -/
theorem test_empty_image :
    onNext (step (State.reset)) (fun t => t.fault == some (.decodeError 0x0000) && t.pc == 0x200#16) = true := by decide

theorem test_odd_pc_is_big_endian :
    onNext (step ({ State.reset with pc := 0x201, mem := State.reset.mem.store 0x201 [0x60, 0x07] })) (fun t => t.reg 0 == 7#8 && t.pc == 0x203#16) = true := by decide

theorem test_keyPress_resolves_wait :
    onNext (step ({ State.reset with wait := some 3, hostSchedule := [.keyPress 0xC] })) (fun t => t.reg 3 == 0x0C#8 && t.wait == none && t.key[12] && t.pc == 0x200#16) = true := by decide

theorem test_keyRelease_keeps_wait :
    onNext (step ({ State.reset with wait := some 3, key := State.reset.key.set 4 true, hostSchedule := [.keyRelease 4] })) (fun t => t.wait == some 3 && !t.key[4]) = true := by decide

theorem test_reset_event_loads_image :
    onNext (step ({ start 0x00EE with sp := 5, hostSchedule := [.reset [0x12, 0x00]] })) (fun t => t.sp == 0 && t.mem.bytes 0x1FF 4 == [0, 0x12, 0, 0] && t.fault == none) = true := by decide

/-! ### Witnesses: for every statement with hypotheses, data that meet them, at the bounds where the statement has some -/

theorem witness_EncodeAndDecodeAreInverse :
    (Instr.shr 1 9).wellFormed = true ∧ decodeWord 0x8196#16 = .ok (.shr 1 9) :=
  by decide

theorem witness_DispatchAgreesWithOpcodeMap :
    decodeWord 0x8196#16 = .ok (.shr 1 9) ∧ (⟨0x8006#16, 0xF00F#16⟩ : OpcodeRow) ∈ opcodeMap ∧
      OpcodeRow.selects ⟨0x8006#16, 0xF00F#16⟩ 0x8196#16 = true ∧ decodeWord 0x0000#16 = .error (.unrecognised 0x0000#16) :=
  by decide

/-- Each class of R77 has a word, and `0x00E0` is in none. -/
theorem witness_DecodeFailuresAreTheSixClasses :
    ([0x0000, 0x5001, 0x8008, 0x9001, 0xE000, 0xF000] : List Nat).all
      (fun k => decide (decodeWord (BitVec.ofNat 16 k) = .error (.unrecognised (BitVec.ofNat 16 k)))) = true ∧
    decodeWord 0x00E0#16 = .ok .cls := by decide

/-- A state at the last fetchable address, 0xFFE, whose word decodes. -/
def lastWord : State := { State.reset with pc := 0xFFE, mem := State.reset.mem.store 0xFFE [0x60, 0x07], dt := 1 }

theorem witness_StepRunsTheDecodedInstruction :
    lastWord.nextEvent = .step ∧ lastWord.fault = none ∧ lastWord.wait = none ∧ lastWord.pc.toNat + 1 ≤ 4095 ∧
      (0x6007#16).toNat = (lastWord.mem.byteAt lastWord.pc.toNat).toNat * 256 +
        (lastWord.mem.byteAt (lastWord.pc.toNat + 1)).toNat ∧
      decodeWord 0x6007#16 = .ok (.ldImm 0 7#8) :=
  by decide

/-- A state at the first address that cannot be fetched. -/
def beyond : State := { State.reset with pc := 0xFFF }

theorem witness_FetchOutsideMemoryRecordsBoundsFault :
    beyond.nextEvent = .step ∧ beyond.fault = none ∧ beyond.wait = none ∧ 4095 ≤ beyond.pc.toNat :=
  by decide

theorem witness_UndecodableWordRecordsDecodeFault :
    State.reset.nextEvent = .step ∧ State.reset.fault = none ∧ State.reset.wait = none ∧ State.reset.pc.toNat + 1 ≤ 4095 ∧
      (0x0000#16).toNat = (State.reset.mem.byteAt State.reset.pc.toNat).toNat * 256 +
        (State.reset.mem.byteAt (State.reset.pc.toNat + 1)).toNat ∧
      ∀ i, decodeWord 0x0000#16 ≠ .ok i :=
  by
  have h : decodeWord 0x0000#16 = .error (.unrecognised 0x0000#16) := by decide
  exact ⟨by decide, rfl, rfl, by decide, by decide, fun i => by rw [h]; simp⟩

theorem witness_ZeroedMemoryDoesNotExecute :
    State.reset.nextEvent = .step ∧ State.reset.fault = none ∧ State.reset.wait = none ∧ State.reset.pc.toNat + 1 ≤ 4095 ∧
      State.reset.mem.byteAt State.reset.pc.toNat = 0#8 ∧ State.reset.mem.byteAt (State.reset.pc.toNat + 1) = 0#8 :=
  by decide

/-- A faulted state with a key event to come. -/
def faulted : State := { State.reset with fault := some (.stackError .underflow), hostSchedule := [.keyPress 7] }

theorem witness_FaultedCoreIsFrozenUntilReset :
    faulted.Inv ∧ faulted.fault = some (.stackError .underflow) ∧ (∀ image, faulted.nextEvent ≠ .reset image) ∧
      ({ faulted with hostSchedule := [] } : State).nextEvent = .step :=
  by
  refine ⟨⟨rfl, by decide, by decide, fun _ => rfl, ?_⟩, rfl, fun image h => ?_, rfl⟩
  · intro f h; cases h; trivial
  · cases h

/-- A state that waits for a key with the delay timer at 1. -/
def waiting : State := { State.reset with wait := some 3, dt := 1 }

theorem witness_KeyWaitOnlyCountsTimersDown :
    waiting.fault = none ∧ waiting.wait = some 3 ∧ waiting.hostSchedule = [] :=
  by decide

theorem witness_TimersCountOncePerStep :
    (start 0xF015).nextEvent = .step ∧ (start 0xF015).executes (.ldDTVx 0) ∧ (∃ t, step (start 0xF015) = .next t) ∧
      (start 0xF018).executes (.ldSTVx 0) ∧ (∃ t, step (start 0xF018) = .next t) ∧
      (∀ x, ¬ waiting.executes (.ldDTVx x)) ∧ (∀ x, ¬ waiting.executes (.ldSTVx x)) ∧ ∃ t, step waiting = .next t :=
  by
  refine ⟨rfl, ⟨rfl, rfl, 0xF015#16, by decide, by decide⟩, ⟨_, rfl⟩, ⟨rfl, rfl, 0xF018#16, by decide, by decide⟩,
    ⟨_, rfl⟩, ?_, ?_, ⟨_, rfl⟩⟩
  · rintro x ⟨-, h, -⟩; cases h
  · rintro x ⟨-, h, -⟩; cases h

/-- `LD DT,V0` at 0x200 and `LD V2,DT` at 0x202, `V0` holding 3. -/
def timerPair : State := { (start 0xF015).setReg 0 3 with mem := State.reset.mem.store 0x200 [0xF0, 0x15, 0xF2, 0x07] }
/-- The state after the first of the two. -/
def timerPairNext : State := { timerPair with dt := 3, pc := 0x202 }

theorem witness_TimerReadAfterWriteIsOneLess :
    timerPair.nextEvent = .step ∧ timerPair.executes (.ldDTVx 0) ∧ step timerPair = .next timerPairNext ∧
      timerPairNext.nextEvent = .step ∧ timerPairNext.executes (.ldVxDT 2) ∧ ∃ u, step timerPairNext = .next u :=
  ⟨rfl, ⟨rfl, rfl, 0xF015#16, by decide, by decide⟩, rfl, rfl, ⟨rfl, rfl, 0xF207#16, by decide, by decide⟩, ⟨_, rfl⟩⟩

theorem witness_EveryStepAnswersANextState :
    ∀ image, ({ State.reset with hostSchedule := [.reset (List.replicate 3584 0#8)] } : State).nextEvent = .reset image →
      image.length ≤ 3584 :=
  by
  intro image h
  rw [State.nextEvent_of_cons rfl, Event.reset.injEq] at h
  rw [← h, List.length_replicate]

theorem witness_OperationsFaultExactlyWhenTheRulesSay :
    (Instr.call 0#12).faultOf { State.reset with sp := 16 } = some (.stackError .overflow) ∧
      (Instr.call 0#12).faultOf { State.reset with sp := 15 } = none ∧
      Instr.ret.faultOf State.reset = some (.stackError .underflow) ∧ Instr.ret.faultOf { State.reset with sp := 1 } = none ∧
      (Instr.drw 0 0 2).faultOf { State.reset with i := 4095 } = some (.memoryBounds 4096) ∧
      (Instr.drw 0 0 1).faultOf { State.reset with i := 4095 } = none ∧
      (Instr.drw 0 0 0).faultOf { State.reset with i := 65535 } = none ∧
      (Instr.ldB 0).faultOf { State.reset with i := 4094 } = some (.memoryBounds 4096) ∧
      (Instr.ldB 0).faultOf { State.reset with i := 4093 } = none ∧
      (Instr.ldMemVx 15).faultOf { State.reset with i := 4081 } = some (.memoryBounds 4096) ∧
      (Instr.ldMemVx 15).faultOf { State.reset with i := 4080 } = none ∧
      (Instr.ldVxMem 0).faultOf { State.reset with i := 4096 } = some (.memoryBounds 4096) ∧
      (Instr.ldVxMem 0).faultOf { State.reset with i := 4095 } = none :=
  by decide

theorem witness_FaultsArePrecise :
    State.reset.nextEvent = .step ∧ State.reset.fault = none ∧
      ∃ t, step State.reset = .next t ∧ t.fault ≠ none :=
  ⟨rfl, rfl, _, rfl, by decide⟩

theorem witness_KeyPressHoldsTheKeyAndEndsTheWait :
    ({ waiting with hostSchedule := [.keyPress 15] } : State).nextEvent = .keyPress 15 ∧ waiting.wait = some 3 ∧
      ({ State.reset with hostSchedule := [.keyPress 0] } : State).nextEvent = .keyPress 0 ∧ State.reset.wait = none :=
  by decide

theorem witness_KeyReleaseEndsNoWait :
    ({ waiting with hostSchedule := [.keyRelease 15] } : State).nextEvent = .keyRelease 15 :=
  by decide

theorem witness_KeyPressResumesAfterAnyWait :
    ({ waiting with hostSchedule := [.step, .step, .keyPress 7] } : State).fault = none ∧
      ({ waiting with hostSchedule := [.step, .step, .keyPress 7] } : State).wait = some 3 ∧
      ({ waiting with hostSchedule := [.step, .step, .keyPress 7] } : State).hostSchedule =
        List.replicate 2 .step ++ [.keyPress 7] :=
  by decide

/-- Both sides of the image's size limit (R191). -/
theorem witness_ResetBuildsTheMachineOrRefuses (n : Nat) :
    ({ State.reset with hostSchedule := [.reset (List.replicate n 1#8)] } : State).nextEvent =
      .reset (List.replicate n 1#8) ∧
    (List.replicate 3584 1#8).length ≤ 3584 ∧ 3584 < (List.replicate 3585 1#8).length := by
  rw [List.length_replicate, List.length_replicate]
  exact ⟨rfl, by decide, by decide⟩

theorem witness_InvariantKeptByEveryStep :
    State.reset.Inv ∧ ∃ t, step State.reset = .next t :=
  by
  refine ⟨⟨rfl, by decide, by decide, fun _ => rfl, ?_⟩, _, rfl⟩
  intro f h; cases h

theorem witness_OperationsChangeOnlyTheirParts :
    ∃ t, exec (.drw 1 2 5) State.reset = .next t :=
  ⟨_, rfl⟩

/-- A step that answers a next state, and one that refuses. -/
theorem witness_SoundTimerIsNeverObserved :
    (∃ t, step State.reset = .next t) ∧
    step { State.reset with hostSchedule := [.reset (List.replicate 3585 0#8)] } = .refused (.imageTooLarge 3585) := by
  refine ⟨⟨_, rfl⟩, ?_⟩
  rw [step, State.nextEvent_of_cons rfl, handleEvent, resetEvent, test_imageFits_refuses_3585, List.length_replicate]
  rfl

theorem witness_UnusedStackSlotsAreNeverRead :
    State.sameLive { start 0x00EE with sp := 1 } { start 0x00EE with sp := 1, stack := State.reset.stack.set 1 0xABC } ∧
      ∃ t, step { start 0x00EE with sp := 1 } = .next t :=
  ⟨⟨rfl, by decide⟩, _, rfl⟩

theorem witness_EndedRunOnlyCountsTimersDown :
    (start 0x1200).endedSuccessfully ∧ (start 0x1200).hostSchedule = [] :=
  ⟨⟨rfl, rfl, by decide, by decide⟩, rfl⟩

theorem witness_PlacedWordIsRunByTheNextStep :
    beyond.mem.wf = true ∧ decodeTableWord 16 0x8124 = some (.addReg 1 2) :=
  by decide

theorem witness_AccessesCheckTheWholeRange :
    (List.replicate 16 1#8).length = 16 ∧ 1 ≤ 16 ∧ 4080 + 16 - 1 ≤ 4095 ∧ 4095 < 4081 + 16 - 1 ∧ ([] : List Byte).length = 0 :=
  by decide

theorem witness_ReadAfterWriteGivesTheBytes :
    State.reset.mem.wf = true ∧ memWrite State.reset.mem 0xFFD [1#8, 0#8, 3#8] = .ok [(0xFFD, 1#8), (0xFFF, 3#8)] :=
  by decide

theorem witness_MemoryIsDeterminedByItsBytes :
    Memory.wf [(0, 0xF1#8), (0xFFF, 3#8)] = true ∧
      ∀ a, a < 4096 → Memory.byteAt [(0, 0xF1#8), (0xFFF, 3#8)] a = Memory.byteAt [(0, 0xF1#8), (0xFFF, 3#8)] a :=
  ⟨by decide, fun _ _ => rfl⟩

/-- At the last word of memory, with `x = 1`, and the three digits of `LD B` up to the last byte. -/
theorem witness_StoredWordIsFetchedNext :
    let s : State := { State.reset with pc := 0xFFC, i := 0xFFE }
    let b : State := { State.reset with pc := 0xFFC, i := 0xFFD }
    s.mem.wf = true ∧ s.pc.toNat + 3 ≤ 4095 ∧ s.i.toNat + (1 : Reg).val ≤ 4095 ∧ 1 ≤ (1 : Reg).val ∧
      s.i.toNat = s.pc.toNat + 2 ∧ b.mem.wf = true ∧ b.pc.toNat + 3 ≤ 4095 ∧ b.i.toNat + 2 ≤ 4095 := by
  decide

theorem witness_CallPushesTheReturnAddress :
    ({ State.reset with sp := 15 } : State).sp.val < 16 ∧ ({ State.reset with sp := 16 } : State).sp = 16 :=
  by decide

theorem witness_ReturnPopsIntoThePc :
    State.reset.sp = 0 ∧ 0 < ({ State.reset with sp := 1 } : State).sp.val ∧ 0 < ({ State.reset with sp := 16 } : State).sp.val :=
  by decide

theorem witness_CallThenReturnRestoresThePc :
    ({ State.reset with sp := 15 } : State).sp.val < 16 :=
  by decide

theorem witness_SkipByRegister :
    (1 : Reg) ≠ 0 ∧ (15 : Reg) ≠ 0 :=
  by decide

theorem witness_RandomByteIsMasked :
    (∃ t, exec .cls State.reset = .next t) ∧ ∀ x kk, Instr.cls ≠ .rnd x kk :=
  ⟨⟨_, rfl⟩, fun _ _ h => by cases h⟩

theorem witness_StoreBlockWritesTheRegisters :
    State.reset.mem.wf = true ∧ ({ State.reset with i := 0xFF0 } : State).i.toNat + (15 : Reg).val ≤ 4095 :=
  by decide

theorem witness_LoadBlockReadsTheRegisters :
    ({ State.reset with i := 0xFF0 } : State).i.toNat + (15 : Reg).val ≤ 4095 ∧ (14 : Reg).val < (15 : Reg).val :=
  by decide

theorem witness_BcdStoresTheThreeDigits :
    State.reset.mem.wf = true ∧ ({ State.reset with i := 0xFFD } : State).i.toNat + 2 ≤ 4095 ∧
      4095 < ({ State.reset with i := 0xFFE } : State).i.toNat + 2 :=
  by decide

/-- Glyph 0 drawn at the origin: its top left pixel is under a 1 bit, the pixel at column 1 of row 1 is not. -/
theorem witness_DrawInvertsThePixelsUnderTheSprite :
    State.reset.i.toNat + (5 : RowCount).val - 1 ≤ 4095 ∧
    ({ State.reset with i := 0xFF1 } : State).i.toNat + (15 : RowCount).val - 1 ≤ 4095 ∧
    State.reset.spriteCovers 0 0 5 0 0 ∧ ¬ State.reset.spriteCovers 0 0 5 1 1 ∧
    (FrameBuffer.clear.toggle 0 0).pixel 0 0 = true := by
  refine ⟨by decide, by decide, ⟨0, 0, by decide, by decide, rfl, rfl, by decide⟩, ?_, by decide⟩
  rintro ⟨r, c, hn, hc, h1, h2, h3⟩
  have hr : r % 32 = 1 := by simpa [State.reset, State.reg] using h1.symm
  have hcc : c % 64 = 1 := by simpa [State.reset, State.reg] using h2.symm
  obtain rfl : c = 1 := by omega
  have : r = 1 := by have : r < 5 := hn; omega
  subst this
  exact absurd h3 (by decide)

theorem witness_DrawingTwiceRestoresTheFrame :
    (0 : Reg) ≠ 15 ∧ (14 : Reg) ≠ 15 ∧ State.reset.i.toNat + (5 : RowCount).val - 1 ≤ 4095 :=
  by decide

theorem witness_KeySkipsTestTheKeyOfTheLowNibble :
    ((State.reset.setReg 1 0xF5).reg 1).toNat % 16 = (5 : Key).val :=
  by decide

end Sys2Proof.Tests
end

/-! PROOFS. What holds of every next state an answer gives, with one rule for each operation that can fault. -/

namespace Sys2Proof.Machine

/-- Every next state the answer gives meets `P`. -/
def AllNext (P : State → Prop) : StepResult → Prop
  | .next t => P t
  | .fault _ | .refused _ => True

theorem allNext_iff {P : State → Prop} {o : StepResult} : AllNext P o ↔ ∀ t, o = .next t → P t := by
  cases o <;> simp [AllNext]

/-! The operations that can fault: one rule each, by the operation's own check. -/

theorem allNext_storeAtI {P : State → Prop} {bytes : List Byte} {s : State}
    (hfault : P (s.recordFault (boundsFault s.dataAddr)))
    (hstore : ∀ m, memWrite s.mem s.dataAddr bytes = .ok m → P (s.setMem m).advance) :
    AllNext P (storeAtI bytes s) := by
  unfold storeAtI
  split
  · next m hm => exact hstore m hm
  · next f hf => rw [(memWrite_eq_error.1 hf).2]; exact hfault

theorem allNext_execLdVxMem {P : State → Prop} {x : Reg} {s : State}
    (hfault : P (s.recordFault (boundsFault s.dataAddr)))
    (hload : P (s.setRegsFrom 0 (s.mem.bytes s.dataAddr (x.val + 1))).advance) :
    AllNext P (execLdVxMem x s) := by
  unfold execLdVxMem
  split
  · next bytes hb => rw [(memRead_eq_ok.1 hb).2]; exact hload
  · next f hf => rw [(memRead_eq_error.1 hf).2]; exact hfault

theorem allNext_execDrw {P : State → Prop} {x y : Reg} {n : RowCount} {s : State}
    (hfault : P (s.recordFault (boundsFault s.dataAddr)))
    (hdraw : ∀ f u, P ((s.setFb f).setFlag u).advance) :
    AllNext P (execDrw x y n s) := by
  unfold execDrw
  split
  · exact hdraw _ _
  · next f hf => rw [(memRead_eq_error.1 hf).2]; exact hfault

theorem allNext_execCall {P : State → Prop} {nnn : Imm12} {s : State}
    (hfault : P (s.recordFault (.stackError .overflow)))
    (hcall : ∀ h, P ((s.pushFrame (s.pc + 2#16) h).setPc (zextImm nnn))) :
    AllNext P (execCall nnn s) := by
  unfold execCall
  split
  · next h => exact hcall h
  · exact hfault

theorem allNext_execRet {P : State → Prop} {s : State}
    (hfault : P (s.recordFault (.stackError .underflow)))
    (hret : ∀ h, P (s.dropFrame.setPc (s.topFrame h))) :
    AllNext P (execRet s) := by
  unfold execRet
  split
  · next h => exact hret h
  · exact hfault

end Sys2Proof.Machine

/-! PROOFS. The state family (spec/10_state.md): the reset values, and the invariant that every step keeps. -/

namespace Sys2Proof.Machine

/-! ### The values of the reset table (R33, R37) -/

theorem reg_reset (r : Reg) : State.reset.reg r = 0#8 := by simp [State.reg, State.reset]

theorem stack_reset (k : Fin 16) : State.reset.stack[k.val] = 0#16 := by simp [State.reset]

theorem key_reset (k : Key) : State.reset.key[k.val] = false := by simp [State.reset]

theorem pixel_reset (row : Fin 32) (col : Fin 64) : State.reset.fb.pixel row col = false :=
  FrameBuffer.pixel_clear row col

/-- Past the 80 font bytes memory is zero right after reset (R37). -/
theorem resetByte_of_le {a : Nat} (h : 80 ≤ a) : resetByte a = 0#8 := by
  have hlen : fontTable.length = 80 := rfl
  have hend : fontTable.length ≤ a - Config.fontBase := by simp only [hlen, Config.fontBase]; omega
  simp [resetByte, List.getElem?_eq_none hend]

/-- Settles O21: the registers, keys and pixels entry by entry, the 80 font bytes by evaluation. -/
theorem resetStateHoldsTheResetValues : Obligations.ResetStateHoldsTheResetValues :=
  ⟨reg_reset, rfl, rfl, rfl, stack_reset, rfl, rfl, key_reset, rfl, pixel_reset, rfl, rfl, fun _ h => resetByte_of_le h⟩

/-! ### The invariant (R25, R101, R163, R166) -/

/-! A word that fails to decode is named by the failure (R74, R77), in each family. -/

theorem decodeFamily0_error {w : Word} {e : DecodeError} (h : decodeFamily0 w = .error e) : e = .unrecognised w := by
  unfold decodeFamily0 at h
  split_ifs at h
  cases h; rfl

theorem decodeFamily8_error {w : Word} {e : DecodeError} (h : decodeFamily8 w = .error e) : e = .unrecognised w := by
  unfold decodeFamily8 at h
  split at h <;> cases h
  rfl

theorem decodeFamilyE_error {w : Word} {e : DecodeError} (h : decodeFamilyE w = .error e) : e = .unrecognised w := by
  unfold decodeFamilyE at h
  split_ifs at h
  cases h; rfl

theorem decodeFamilyF_error {w : Word} {e : DecodeError} (h : decodeFamilyF w = .error e) : e = .unrecognised w := by
  unfold decodeFamilyF at h
  split_ifs at h
  cases h; rfl

theorem decodeWord_error {w : Word} {e : DecodeError} (h : decodeWord w = .error e) : e = .unrecognised w := by
  unfold decodeWord at h
  split at h
  case h_1 => exact decodeFamily0_error h
  case h_6 | h_10 => split_ifs at h; cases h; rfl
  case h_9 => exact decodeFamily8_error h
  case h_15 => exact decodeFamilyE_error h
  case h_16 => exact decodeFamilyF_error h
  all_goals cases h

/-- A 16-bit base bounds the address a failed range check records (R53). -/
theorem boundsFault_wellRecorded (base : Word) : (boundsFault base.toNat).wellRecorded := by
  have := base.isLt
  simp only [boundsFault, FaultRecord.wellRecorded, Config.memSize]
  omega

namespace State.Inv

variable {s : State}

theorem reset : State.reset.Inv where
  memory := rfl
  pcBound := by decide
  stackBound k := by simp [State.reset]
  faultNoWait _ := rfl
  faultRecord _ h := by cases h

theorem tickTimers (hs : s.Inv) : s.tickTimers.Inv :=
  ⟨hs.memory, hs.pcBound, hs.stackBound, hs.faultNoWait, hs.faultRecord⟩

theorem consumeEvent (hs : s.Inv) : s.consumeEvent.Inv :=
  ⟨hs.memory, hs.pcBound, hs.stackBound, hs.faultNoWait, hs.faultRecord⟩

theorem setKey (hs : s.Inv) (k : Key) (held : Bool) : (s.setKey k held).Inv :=
  ⟨hs.memory, hs.pcBound, hs.stackBound, hs.faultNoWait, hs.faultRecord⟩

theorem setReg (hs : s.Inv) (r : Reg) (u : Byte) : (s.setReg r u).Inv :=
  ⟨hs.memory, hs.pcBound, hs.stackBound, hs.faultNoWait, hs.faultRecord⟩

theorem endWait (hs : s.Inv) : (s.setWait none).Inv :=
  ⟨hs.memory, hs.pcBound, hs.stackBound, fun _ => rfl, hs.faultRecord⟩

theorem keyPress (hs : s.Inv) (k : Key) : (s.keyPress k).Inv := by
  obtain ⟨-, e⟩ | ⟨r, -, e⟩ := s.keyPress_cases k
  · rw [e]; exact hs.setKey k true
  · rw [e]; exact ((hs.setKey k true).setReg r _).endWait

theorem resetWith {image : List Byte} (h : imageFits image = true) : (s.resetWith image).Inv :=
  ⟨wf_resetWith s h, reset.pcBound, reset.stackBound, reset.faultNoWait, reset.faultRecord⟩

/-- Recording a fault of R163 in a core that does not wait keeps the invariant (R166). -/
theorem recordFault (hs : s.Inv) (hwait : s.wait = none) {f : FaultRecord} (hf : f.wellRecorded) :
    (s.recordFault f).Inv :=
  ⟨hs.memory, hs.pcBound, hs.stackBound, fun _ => hwait, fun g hg => by cases hg; exact hf⟩

/-- In an unfaulted core only memory, `PC` and the stack count. -/
theorem of_unfaulted {t : State} (hfault : t.fault = none) (hmem : t.mem.wf = true) (hpc : t.pc.toNat ≤ 4350)
    (hstack : ∀ k : Fin 16, (t.stack[k.val]).toNat ≤ 4096) : t.Inv :=
  ⟨hmem, hpc, hstack, fun h => absurd hfault h, fun f h => by rw [hfault] at h; cases h⟩

end State.Inv

/-! The largest values an operation fetched below 4095 writes to `PC` (R25). -/

theorem toNat_zextImm_lt (nnn : Imm12) : (zextImm nnn).toNat < 4096 := by
  have := nnn.isLt
  simp only [zextImm, BitVec.toNat_setWidth]
  omega

theorem toNat_jpV0_target (nnn : Imm12) (u : Byte) : (zextImm nnn + zext16 u).toNat ≤ 4350 := by
  have := toNat_zextImm_lt nnn
  have := u.isLt
  simp only [zext16, BitVec.toNat_add, BitVec.toNat_setWidth]
  omega

theorem toNat_next_le {pc : Word} (h : pc.toNat + 1 < Config.memSize) : (pc + 2#16).toNat ≤ 4096 := by
  simp only [Config.memSize] at h
  bv_omega

theorem toNat_skip_le {pc : Word} (h : pc.toNat + 1 < Config.memSize) (c : Bool) :
    (if c then pc + 4#16 else pc + 2#16).toNat ≤ 4350 := by
  simp only [Config.memSize] at h
  split <;> bv_omega

/-- A pushed return address keeps the stack bounded (R101). -/
theorem stackBound_pushFrame {s : State} (hs : s.Inv) {ret : Word} (hret : ret.toNat ≤ 4096) (h : s.sp.val < 16)
    (k : Fin 16) : ((s.pushFrame ret h).stack[k.val]).toNat ≤ 4096 := by
  rw [State.pushFrame_stack, Vector.getElem_set]
  split
  · exact hret
  · exact hs.stackBound k

/-- Every operation of a running core keeps the invariant. -/
theorem exec_keeps_inv (i : Instr) {s : State} (hs : s.Inv) (hfault : s.fault = none) (hwait : s.wait = none)
    (hpc : s.pc.toNat + 1 < Config.memSize) : AllNext State.Inv (exec i s) := by
  have hnext : (s.pc + 2#16).toNat ≤ 4350 := (toNat_next_le hpc).trans (by decide)
  have hbounds : (s.recordFault (boundsFault s.dataAddr)).Inv := hs.recordFault hwait (boundsFault_wellRecorded s.i)
  have hstore (bytes : List Byte) : AllNext State.Inv (storeAtI bytes s) :=
    allNext_storeAtI hbounds fun _ hm => .of_unfaulted hfault (wf_memWrite hs.memory hm) hnext hs.stackBound
  cases i with
  | jp nnn => exact .of_unfaulted hfault hs.memory ((toNat_zextImm_lt nnn).le.trans (by decide)) hs.stackBound
  | jpV0 nnn => exact .of_unfaulted hfault hs.memory (toNat_jpV0_target nnn _) hs.stackBound
  | call nnn =>
    exact allNext_execCall (hs.recordFault hwait trivial) fun h =>
      .of_unfaulted hfault hs.memory ((toNat_zextImm_lt nnn).le.trans (by decide))
        (stackBound_pushFrame hs (toNat_next_le hpc) h)
  | ret =>
    exact allNext_execRet (hs.recordFault hwait trivial) fun h =>
      .of_unfaulted hfault hs.memory ((hs.stackBound ⟨s.sp.val - 1, by omega⟩).trans (by decide)) hs.stackBound
  | seImm _ _ | sneImm _ _ | seReg _ _ | sneReg _ _ | skp _ | sknp _ =>
    exact .of_unfaulted hfault hs.memory (toNat_skip_le hpc _) hs.stackBound
  | drw _ _ _ => exact allNext_execDrw hbounds fun _ _ => .of_unfaulted hfault hs.memory hnext hs.stackBound
  | ldVxMem x =>
    refine allNext_execLdVxMem hbounds ?_
    rw [State.setRegsFrom_eq]
    exact .of_unfaulted hfault hs.memory hnext hs.stackBound
  | ldB _ | ldMemVx _ => exact hstore _
  | cls | ldImm _ _ | addImm _ _ | ldReg _ _ | orReg _ _ | andReg _ _ | xorReg _ _ | addReg _ _ | sub _ _ | shr _ _
  | subn _ _ | shl _ _ | ldI _ | rnd _ _ | ldVxDT _ | ldVxK _ | ldDTVx _ | ldSTVx _ | addI _ | ldF _ =>
    exact .of_unfaulted hfault hs.memory hnext hs.stackBound

/-- A `Step` event keeps the invariant (R161). -/
theorem stepEvent_keeps_inv {s : State} (hs : s.Inv) : AllNext State.Inv (stepEvent s) := by
  obtain ⟨-, e⟩ | ⟨-, -, e⟩ | ⟨-, hw, -, e⟩ | ⟨w, err, -, hw, -, hd, e⟩ | ⟨w, i, hf, hw, hx, -, e⟩ := stepEvent_cases s
    <;> rw [e]
  · exact hs
  · exact hs.tickTimers
  · exact hs.tickTimers.recordFault hw (boundsFault_wellRecorded s.pc)
  · refine hs.tickTimers.recordFault hw ?_
    rw [decodeWord_error hd] at hd
    exact hd
  · exact exec_keeps_inv i hs.tickTimers hf hw (fetchWord_eq_ok.1 hx).1

/-- Every step keeps the invariant, whatever the event (R160). -/
theorem step_keeps_inv {s : State} (hs : s.Inv) : AllNext State.Inv (step s) := by
  obtain ⟨-, e⟩ | ⟨k, -, e⟩ | ⟨k, -, e⟩ | ⟨image, -, e⟩ := step_cases s <;> rw [e]
  · exact stepEvent_keeps_inv hs.consumeEvent
  · exact hs.consumeEvent.keyPress k
  · exact hs.consumeEvent.setKey k false
  · unfold resetEvent
    split
    · next h => exact .resetWith h
    · trivial

/-- Settles O23: each event's rule keeps the invariant, and so does each of the 34 operations in a core that fetched it. -/
theorem invariantKeptByEveryStep : Obligations.InvariantKeptByEveryStep :=
  fun _ t hs h => allNext_iff.1 (step_keeps_inv hs) t h

/-- Settles O22: the values of R37 are canonical, bounded and unfaulted. -/
theorem invariantHoldsAtReset : Obligations.InvariantHoldsAtReset := State.Inv.reset

end Sys2Proof.Machine

/-! PROOFS. Frames: the parts and registers each update of the state, and so each operation, may change (R21, R38). -/

namespace Sys2Proof.Machine

/-- Only the named parts, and of the registers only the named ones, may differ. -/
def State.changesOnly (parts : List Part) (regs : List Reg) (s t : State) : Prop :=
  State.keepsBut parts s t ∧ State.keepsRegsBut regs s t

theorem Part.same_trans {p : Part} {s t u : State} (h : p.same s t) (h' : p.same t u) : p.same s u := by
  cases p with
  | regs => exact fun r => (h' r).trans (h r)
  | fb => exact fun row col => (h' row col).trans (h row col)
  | mem => exact fun a => (h' a).trans (h a)
  | i | pc | stack | sp | dt | st | key | wait | fault | hostSchedule | draws => exact Eq.trans h' h

namespace State.changesOnly

variable {s t u : State} {parts parts' : List Part} {regs regs' : List Reg}

/-- One update after the other changes what either changes. -/
theorem trans (h : changesOnly parts regs s t) (h' : changesOnly parts' regs' t u) :
    changesOnly (parts ++ parts') (regs ++ regs') s u := by
  obtain ⟨hparts, hregs⟩ := h
  obtain ⟨hparts', hregs'⟩ := h'
  refine ⟨fun p hp => ?_, fun r hr => ?_⟩
  · obtain ⟨hp, hp'⟩ := not_or.1 (List.mem_append.not.1 hp)
    exact Part.same_trans (hparts p hp) (hparts' p hp')
  · obtain ⟨hr, hr'⟩ := not_or.1 (List.mem_append.not.1 hr)
    exact (hregs' r hr').trans (hregs r hr)

theorem mono (h : changesOnly parts regs s t) (hp : parts ⊆ parts') (hr : regs ⊆ regs') :
    changesOnly parts' regs' s t :=
  ⟨fun p hp' => h.1 p fun hm => hp' (hp hm), fun r hr' => h.2 r fun hm => hr' (hr hm)⟩

/-! The frame of each update. -/

variable (s)

theorem setReg (r : Reg) (b : Byte) : changesOnly [.regs] [r] s (s.setReg r b) := by
  refine ⟨fun p hp => ?_, fun q hq => reg_setReg_of_ne s b (by simpa using hq)⟩
  cases p <;> simp [Part.same] at hp ⊢

theorem setRegsFrom (x : Reg) {bytes : List Byte} (hb : bytes.length = x.val + 1) :
    changesOnly [.regs] (regsUpTo x) s (s.setRegsFrom 0 bytes) := by
  refine ⟨fun p hp => ?_, fun q hq => ?_⟩
  · rw [setRegsFrom_eq]
    cases p <;> simp [Part.same] at hp ⊢
  · have hx : ¬ q.val ≤ x.val := by simpa [regsUpTo] using hq
    rw [reg_setRegsFrom, if_neg (by omega)]

/-- An update that leaves the registers alone changes none of them. -/
theorem of_keepsBut {s t : State} (hregs : Part.regs ∉ parts) (h : keepsBut parts s t) : changesOnly parts [] s t :=
  ⟨h, fun r _ => h .regs hregs r⟩

theorem setI (a : Word) : changesOnly [.i] [] s (s.setI a) :=
  of_keepsBut (by simp) fun p hp => by cases p <;> simp [Part.same] at hp ⊢

theorem setPc (a : Word) : changesOnly [.pc] [] s (s.setPc a) :=
  of_keepsBut (by simp) fun p hp => by cases p <;> simp [Part.same] at hp ⊢

theorem setDt (u : Byte) : changesOnly [.dt] [] s (s.setDt u) :=
  of_keepsBut (by simp) fun p hp => by cases p <;> simp [Part.same] at hp ⊢

theorem setSt (u : Byte) : changesOnly [.st] [] s (s.setSt u) :=
  of_keepsBut (by simp) fun p hp => by cases p <;> simp [Part.same] at hp ⊢

theorem setWait (w : Option Reg) : changesOnly [.wait] [] s (s.setWait w) :=
  of_keepsBut (by simp) fun p hp => by cases p <;> simp [Part.same] at hp ⊢

theorem setFb (f : FrameBuffer) : changesOnly [.fb] [] s (s.setFb f) :=
  of_keepsBut (by simp) fun p hp => by cases p <;> simp [Part.same] at hp ⊢

theorem setMem (m : Memory) : changesOnly [.mem] [] s (s.setMem m) :=
  of_keepsBut (by simp) fun p hp => by cases p <;> simp [Part.same] at hp ⊢

theorem pushFrame (ret : Word) (h : s.sp.val < 16) : changesOnly [.stack, .sp] [] s (s.pushFrame ret h) :=
  of_keepsBut (by simp) fun p hp => by cases p <;> simp [Part.same] at hp ⊢

theorem dropFrame : changesOnly [.sp] [] s s.dropFrame :=
  of_keepsBut (by simp) fun p hp => by cases p <;> simp [Part.same] at hp ⊢

theorem countDraw : changesOnly [.draws] [] s s.countDraw :=
  of_keepsBut (by simp) fun p hp => by cases p <;> simp [Part.same] at hp ⊢

theorem recordFault (hfault : Part.fault ∈ parts) (f : FaultRecord) : changesOnly parts regs s (s.recordFault f) := by
  have hf : changesOnly [.fault] [] s (s.recordFault f) :=
    of_keepsBut (by simp) fun p hp => by cases p <;> simp [Part.same] at hp ⊢
  exact hf.mono (by simpa using hfault) (by simp)

end State.changesOnly

open State (changesOnly)

/-- The ending of the five flag-writing operations touches `V[15]`, the destination and `PC` (R110). -/
theorem changesOnly_flagThenResult (x : Reg) (flag result : Byte) (s : State) :
    AllNext (changesOnly [.regs, .pc] [x, 15] s) (flagThenResult x flag result s) :=
  (((changesOnly.setReg s flagReg flag).trans (.setReg _ x result)).trans (.setPc _ _)).mono (by simp) (by simp [flagReg])

/-- A store at `I` touches memory and `PC`, or records a fault (R53). -/
theorem changesOnly_storeAtI (bytes : List Byte) (s : State) :
    AllNext (changesOnly [.mem, .pc, .fault] [] s) (storeAtI bytes s) :=
  allNext_storeAtI (.recordFault s (by simp) _)
    fun m _ => ((changesOnly.setMem s m).trans (.setPc _ _)).mono (by simp) (by simp)

/-- Each operation changes only the parts and registers the tables give it (R21, R38). -/
theorem exec_changesOnly (i : Instr) (s : State) : AllNext (changesOnly i.changes i.destRegs s) (exec i s) := by
  cases i with
  | jp _ | jpV0 _ | seImm _ _ | sneImm _ _ | seReg _ _ | sneReg _ _ | skp _ | sknp _ => exact .setPc s _
  | ldImm x _ | addImm x _ | ldReg x _ | orReg x _ | andReg x _ | xorReg x _ | ldVxDT x =>
    exact (changesOnly.setReg s x _).trans (.setPc _ _)
  | addReg x _ | sub x _ | shr x _ | subn x _ | shl x _ => exact changesOnly_flagThenResult x _ _ s
  | ldI _ | addI _ | ldF _ => exact (changesOnly.setI s _).trans (.setPc _ _)
  | ldDTVx _ => exact (changesOnly.setDt s _).trans (.setPc _ _)
  | ldSTVx _ => exact (changesOnly.setSt s _).trans (.setPc _ _)
  | ldVxK _ => exact (changesOnly.setWait s _).trans (.setPc _ _)
  | cls => exact (changesOnly.setFb s _).trans (.setPc _ _)
  | rnd x _ =>
    exact (((changesOnly.countDraw s).trans (.setReg _ x _)).trans (.setPc _ _)).mono
      (by simp [Instr.changes]) (by simp [Instr.destRegs])
  | ldB _ | ldMemVx _ => exact changesOnly_storeAtI _ s
  | call _ =>
    exact allNext_execCall (.recordFault s (by simp [Instr.changes]) _)
      fun h => ((changesOnly.pushFrame s _ h).trans (.setPc _ _)).mono (by simp [Instr.changes]) (by simp)
  | ret =>
    exact allNext_execRet (.recordFault s (by simp [Instr.changes]) _)
      fun _ => ((changesOnly.dropFrame s).trans (.setPc _ _)).mono (by simp [Instr.changes]) (by simp)
  | drw _ _ _ =>
    exact allNext_execDrw (.recordFault s (by simp [Instr.changes]) _)
      fun f u => (((changesOnly.setFb s f).trans (.setReg _ flagReg u)).trans (.setPc _ _)).mono
        (by simp [Instr.changes]) (by simp [Instr.destRegs, flagReg])
  | ldVxMem x =>
    exact allNext_execLdVxMem (.recordFault s (by simp [Instr.changes]) _)
      ((changesOnly.setRegsFrom s x (Memory.length_bytes _ _ _)).trans (.setPc _ _) |>.mono
        (by simp [Instr.changes]) (by simp [Instr.destRegs]))

/-- Settles O24: each operation is a chain of updates, each of which has its own frame. -/
theorem operationsChangeOnlyTheirParts : Obligations.OperationsChangeOnlyTheirParts :=
  fun i s t h => allNext_iff.1 (exec_changesOnly i s) t h

end Sys2Proof.Machine

/-! PROOFS. Noninterference: a piece of state that no step observes (the sound timer, R28; stack slots not in use, R26).
Two steps from related states stay related; the argument is made once, for any relation that hides `ST` and the stack. -/

namespace Sys2Proof.Machine

/-- Two answers of one kind: next states that are related, or the same refusal. -/
def Alike (R : State → State → Prop) (o o' : StepResult) : Prop :=
  (∀ t, o = .next t → ∃ t', o' = .next t' ∧ R t t') ∧ (∀ r, o = .refused r → o' = .refused r)

namespace Alike

variable {R : State → State → Prop} {s s' : State}

theorem next (h : R s s') : Alike R (.next s) (.next s') :=
  ⟨fun _ ht => ⟨s', rfl, Host.Outcome.next.inj ht ▸ h⟩, fun _ hr => nomatch hr⟩

theorem refused (r : Refusal) : Alike R (.refused r) (.refused r) :=
  ⟨fun _ ht => (nomatch ht), fun _ hr => hr⟩

end Alike

/-- A relation between states that differ at most in `ST` and the stack's contents, and that is kept by writing like values
to the other fields, by the timers, by a write of `ST`, by a push, by a pop (which reads like values), and by a reset. -/
structure Unobserved (R : State → State → Prop) : Prop where
  agree {s s' : State} : R s s' → ∃ st stack, s' = { s with st, stack }
  write {s s' : State} {v i pc dt key wait fb mem fault hostSchedule draws} : R s s' →
    R { s with v, i, pc, dt, key, wait, fb, mem, fault, hostSchedule, draws }
      { s' with v, i, pc, dt, key, wait, fb, mem, fault, hostSchedule, draws }
  tickTimers {s s' : State} : R s s' → R s.tickTimers s'.tickTimers
  setSt {s s' : State} (u : Byte) : R s s' → R (s.setSt u) (s'.setSt u)
  pushFrame {s s' : State} (ret : Word) {h h'} : R s s' → R (s.pushFrame ret h) (s'.pushFrame ret h')
  popFrame {s s' : State} (h h') : R s s' → s'.topFrame h' = s.topFrame h ∧ R s.dropFrame s'.dropFrame
  resetWith {s s' : State} (image : List Byte) : R s s' → R (s.resetWith image) (s'.resetWith image)

namespace Unobserved

variable {R : State → State → Prop} (hR : Unobserved R) {s s' : State}
include hR

/-- What a step looks at before it executes is the same in both states. -/
theorem guards_eq (h : R s s') : s'.nextEvent = s.nextEvent ∧ s'.fault = s.fault ∧ s'.wait = s.wait ∧ s'.sp = s.sp ∧
    fetchWord s'.mem s'.pc.toNat = fetchWord s.mem s.pc.toNat := by
  obtain ⟨st, stack, rfl⟩ := hR.agree h
  exact ⟨rfl, rfl, rfl, rfl, rfl⟩

/-! ### The updates that only write like values

`(hR.write h :)` fixes the states before the written values are read off the goal. -/

theorem setPc (a : Word) (h : R s s') : R (s.setPc a) (s'.setPc a) := by
  obtain ⟨st, stack, rfl⟩ := hR.agree h
  exact hR.write h

theorem setReg (r : Reg) (u : Byte) (h : R s s') : R (s.setReg r u) (s'.setReg r u) := by
  obtain ⟨st, stack, rfl⟩ := hR.agree h
  exact hR.write h

theorem setRegsFrom (bytes : List Byte) (k : Nat) (h : R s s') : R (s.setRegsFrom k bytes) (s'.setRegsFrom k bytes) := by
  induction bytes generalizing s s' k with
  | nil => exact h
  | cons u rest ih =>
    simp only [State.setRegsFrom]
    split
    · exact ih _ (hR.setReg _ u h)
    · exact h

theorem advance (h : R s s') : R s.advance s'.advance := by
  obtain ⟨st, stack, rfl⟩ := hR.agree h
  exact hR.setPc _ h

theorem recordFault (f : FaultRecord) (h : R s s') : R (s.recordFault f) (s'.recordFault f) := by
  obtain ⟨st, stack, rfl⟩ := hR.agree h
  exact hR.write h

theorem consumeEvent (h : R s s') : R s.consumeEvent s'.consumeEvent := by
  obtain ⟨st, stack, rfl⟩ := hR.agree h
  exact hR.write h

theorem setKey (k : Key) (held : Bool) (h : R s s') : R (s.setKey k held) (s'.setKey k held) := by
  obtain ⟨st, stack, rfl⟩ := hR.agree h
  exact hR.write h

theorem setWait (w : Option Reg) (h : R s s') : R (s.setWait w) (s'.setWait w) := by
  obtain ⟨st, stack, rfl⟩ := hR.agree h
  exact hR.write h

theorem keyPress (k : Key) (h : R s s') : R (s.keyPress k) (s'.keyPress k) := by
  obtain ⟨-, -, hwait, -, -⟩ := hR.guards_eq h
  unfold State.keyPress
  rw [hwait]
  cases s.wait with
  | none => exact hR.setKey k true h
  | some r => exact hR.setWait none (hR.setReg r _ (hR.setKey k true h))

/-! ### The operations that can fault: both states pass the check or neither does -/

theorem storeAtI (bytes : List Byte) (h : R s s') : Alike R (Machine.storeAtI bytes s) (Machine.storeAtI bytes s') := by
  obtain ⟨st, stack, rfl⟩ := hR.agree h
  simp only [Machine.storeAtI, State.dataAddr]
  cases memWrite s.mem s.i.toNat bytes with
  | ok m => exact .next (hR.write h :)
  | error f => exact .next (hR.recordFault f h)

theorem execLdVxMem (x : Reg) (h : R s s') : Alike R (Machine.execLdVxMem x s) (Machine.execLdVxMem x s') := by
  obtain ⟨st, stack, rfl⟩ := hR.agree h
  simp only [Machine.execLdVxMem, State.dataAddr]
  cases memRead s.mem s.i.toNat (x.val + 1) with
  | ok bytes => exact .next (hR.advance (hR.setRegsFrom bytes 0 h))
  | error f => exact .next (hR.recordFault f h)

theorem execDrw (x y : Reg) (n : RowCount) (h : R s s') :
    Alike R (Machine.execDrw x y n s) (Machine.execDrw x y n s') := by
  obtain ⟨st, stack, rfl⟩ := hR.agree h
  simp only [Machine.execDrw, State.dataAddr]
  cases memRead s.mem s.i.toNat n.val with
  | ok rows => exact .next (hR.write h :)
  | error f => exact .next (hR.recordFault f h)

theorem execCall (nnn : Imm12) (h : R s s') : Alike R (Machine.execCall nnn s) (Machine.execCall nnn s') := by
  obtain ⟨st, stack, rfl⟩ := hR.agree h
  by_cases hsp : s.sp.val < 16
  · simp only [Machine.execCall, dif_pos hsp]
    exact .next (hR.setPc _ (hR.pushFrame _ h))
  · simp only [Machine.execCall, dif_neg hsp]
    exact .next (hR.recordFault _ h)

theorem execRet (h : R s s') : Alike R (Machine.execRet s) (Machine.execRet s') := by
  obtain ⟨-, -, -, hsp, -⟩ := hR.guards_eq h
  by_cases hpos : 0 < s.sp.val
  · have hpos' : 0 < s'.sp.val := by rwa [hsp]
    obtain ⟨htop, hdrop⟩ := hR.popFrame hpos hpos' h
    simp only [Machine.execRet, dif_pos hpos, dif_pos hpos', htop]
    exact .next (hR.setPc _ hdrop)
  · have hpos' : ¬ 0 < s'.sp.val := by rwa [hsp]
    simp only [Machine.execRet, dif_neg hpos, dif_neg hpos']
    exact .next (hR.recordFault _ h)

/-- Every operation answers alike in related states. -/
theorem exec (i : Instr) (h : R s s') : Alike R (Machine.exec i s) (Machine.exec i s') := by
  obtain ⟨st, stack, e⟩ := hR.agree h
  cases i with
  | ret => exact hR.execRet h
  | call nnn => exact hR.execCall nnn h
  | drw x y n => exact hR.execDrw x y n h
  | ldVxMem x => exact hR.execLdVxMem x h
  | ldB _ | ldMemVx _ => subst e; exact hR.storeAtI _ h
  | ldSTVx x => subst e; exact .next (hR.advance (hR.setSt _ h))
  | cls | jp _ | seImm _ _ | sneImm _ _ | seReg _ _ | ldImm _ _ | addImm _ _ | ldReg _ _ | orReg _ _ | andReg _ _
  | xorReg _ _ | addReg _ _ | sub _ _ | shr _ _ | subn _ _ | shl _ _ | sneReg _ _ | ldI _ | jpV0 _ | rnd _ _ | skp _
  | sknp _ | ldVxDT _ | ldVxK _ | ldDTVx _ | addI _ | ldF _ => subst e; exact .next (hR.write h :)

/-! ### The events -/

theorem fetchDecodeExecute (h : R s s') : Alike R (Machine.fetchDecodeExecute s) (Machine.fetchDecodeExecute s') := by
  obtain ⟨-, -, -, -, hfetch⟩ := hR.guards_eq h
  unfold Machine.fetchDecodeExecute
  rw [hfetch]
  cases fetchWord s.mem s.pc.toNat with
  | error f => exact .next (hR.recordFault f h)
  | ok w =>
    dsimp only
    cases decodeWord w with
    | error e => exact .next (hR.recordFault _ h)
    | ok i => exact hR.exec i h

theorem stepEvent (h : R s s') : Alike R (Machine.stepEvent s) (Machine.stepEvent s') := by
  obtain ⟨-, hfault, hwait, -, -⟩ := hR.guards_eq h
  unfold Machine.stepEvent
  rw [State.tickTimers_wait, State.tickTimers_wait, hfault, hwait]
  split_ifs
  · exact .next h
  · exact .next (hR.tickTimers h)
  · exact hR.fetchDecodeExecute (hR.tickTimers h)

theorem resetEvent (image : List Byte) (h : R s s') :
    Alike R (Machine.resetEvent image s) (Machine.resetEvent image s') := by
  unfold Machine.resetEvent
  split
  · exact .next (hR.resetWith image h)
  · exact .refused _

/-- One step from related states answers alike, whatever the event (R160). -/
theorem step (h : R s s') : Alike R (Machine.step s) (Machine.step s') := by
  have hc := hR.consumeEvent h
  obtain ⟨hevent, -, -, -, -⟩ := hR.guards_eq h
  rw [Machine.step, Machine.step, hevent]
  cases s.nextEvent with
  | step => exact hR.stepEvent hc
  | keyPress k => exact .next (hR.keyPress k hc)
  | keyRelease k => exact .next (hR.setKey k false hc)
  | reset image => exact hR.resetEvent image hc

end Unobserved

/-! ### The sound timer (R28) -/

/-- The second state is the first but for `ST`. -/
def State.sameButSt (s s' : State) : Prop := ∃ u, s' = { s with st := u }

theorem State.sameButSt.unobserved : Unobserved sameButSt where
  agree := by rintro s _ ⟨u, rfl⟩; exact ⟨u, s.stack, rfl⟩
  write := by rintro s _ _ _ _ _ _ _ _ _ _ _ _ ⟨u, rfl⟩; exact ⟨u, rfl⟩
  tickTimers := by rintro s _ ⟨u, rfl⟩; exact ⟨tick u, rfl⟩
  setSt := by rintro s _ u ⟨_, rfl⟩; exact ⟨u, rfl⟩
  pushFrame := by rintro s _ ret _ _ ⟨u, rfl⟩; exact ⟨u, rfl⟩
  popFrame := by rintro s _ _ _ ⟨u, rfl⟩; exact ⟨rfl, u, rfl⟩
  resetWith := by rintro s _ image ⟨_, rfl⟩; exact ⟨0#8, rfl⟩

/-- Settles O25: a difference in `ST` alone is kept by every part of a step, and no part looks at it. -/
theorem soundTimerIsNeverObserved : Obligations.SoundTimerIsNeverObserved := by
  intro s u
  obtain ⟨hnext, hrefused⟩ := State.sameButSt.unobserved.step (s := s) ⟨u, rfl⟩
  refine ⟨fun t ht => ?_, hrefused⟩
  obtain ⟨_, e, u', rfl⟩ := hnext t ht
  exact ⟨u', e⟩

/-! ### Stack slots not in use (R26) -/

namespace State.sameLive

/-- The second state is the first with another stack that agrees on the slots in use. -/
theorem iff_exists {s s' : State} : sameLive s s' ↔
    ∃ stack, s' = { s with stack } ∧ ∀ k : Fin 16, k.val < s.sp.val → stack[k.val] = s.stack[k.val] := by
  constructor
  · rintro ⟨e, hk⟩; exact ⟨s'.stack, e, hk⟩
  · rintro ⟨stack, rfl, hk⟩; exact ⟨rfl, hk⟩

/-- A push writes one value to the same slot of both stacks and puts it in use (R101). -/
theorem pushFrame {s s' : State} (ret : Word) {h : s.sp.val < 16} {h' : s'.sp.val < 16} (hs : sameLive s s') :
    sameLive (s.pushFrame ret h) (s'.pushFrame ret h') := by
  obtain ⟨stack, rfl, hk⟩ := iff_exists.1 hs
  refine ⟨rfl, fun k hlt => ?_⟩
  simp only [pushFrame_stack, pushFrame_sp, Vector.getElem_set] at hlt ⊢
  split_ifs with heq
  · rfl
  · exact hk k (by omega)

/-- A pop reads a slot in use, and puts it out of use (R102). -/
theorem popFrame {s s' : State} (h : 0 < s.sp.val) (h' : 0 < s'.sp.val) (hs : sameLive s s') :
    s'.topFrame h' = s.topFrame h ∧ sameLive s.dropFrame s'.dropFrame := by
  obtain ⟨stack, rfl, hk⟩ := iff_exists.1 hs
  exact ⟨hk ⟨s.sp.val - 1, by omega⟩ (Nat.sub_lt h Nat.one_pos), rfl,
    fun k hlt => hk k (hlt.trans_le (Nat.sub_le _ _))⟩

theorem unobserved : Unobserved sameLive where
  agree h := by obtain ⟨stack, e, -⟩ := iff_exists.1 h; exact ⟨_, stack, e⟩
  write h := by obtain ⟨stack, rfl, hk⟩ := iff_exists.1 h; exact ⟨rfl, hk⟩
  tickTimers h := by obtain ⟨stack, rfl, hk⟩ := iff_exists.1 h; exact ⟨rfl, hk⟩
  setSt u h := by obtain ⟨stack, rfl, hk⟩ := iff_exists.1 h; exact ⟨rfl, hk⟩
  pushFrame ret _ _ h := h.pushFrame ret
  popFrame h h' hs := popFrame h h' hs
  resetWith image h := by obtain ⟨stack, rfl, hk⟩ := iff_exists.1 h; exact ⟨rfl, fun _ _ => rfl⟩

end State.sameLive

/-- Settles O26: the only reader of the stack is the pop, and it reads a slot in use. -/
theorem unusedStackSlotsAreNeverRead : Obligations.UnusedStackSlotsAreNeverRead :=
  fun _ _ t hs h => (State.sameLive.unobserved.step hs).1 t h

end Sys2Proof.Machine

/-! PROOFS. The memory family (spec/20_memory.md): the bounds check, reading after a write, the canonical form, and what the
next fetch sees of a store. -/

namespace Sys2Proof.Machine

/-! ### Reading and writing a range (R53, R62) -/

namespace Memory

theorem getD_bytes (m : Memory) (addr : Nat) {n k : Nat} (h : k < n) :
    (m.bytes addr n).getD k 0 = m.byteAt (addr + k) := by
  have hk : k < (m.bytes addr n).length := by rwa [length_bytes]
  rw [← List.getElem_eq_getD 0 (h := hk), getElem_bytes]

/-- Reading back the range of a store gives the bytes stored. -/
theorem bytes_store {m : Memory} (hm : m.wf = true) {addr : Nat} {bytes : List Byte}
    (h : addr + bytes.length ≤ Config.memSize) : (m.store addr bytes).bytes addr bytes.length = bytes := by
  refine List.ext_getElem (length_bytes _ _ _) fun k _ hk => ?_
  rw [getElem_bytes, byteAt_store hm h, if_pos (by omega), Nat.add_sub_cancel_left, ← List.getElem_eq_getD]

end Memory

/-- Settles O29: both accesses answer by the one check, which passes for no bytes and for a range below 4096. -/
theorem accessesCheckTheWholeRange : Obligations.AccessesCheckTheWholeRange := by
  rintro m addr _ bytes rfl
  refine ⟨fun h0 => ?_, fun h1 hin => ?_, fun h1 hout => ?_⟩
  · obtain rfl := List.length_eq_zero_iff.1 h0
    exact ⟨memRead_eq_ok.2 ⟨.inl rfl, rfl⟩, memWrite_eq_ok.2 ⟨.inl rfl, rfl⟩⟩
  · have hcheck : bytes.length = 0 ∨ addr + bytes.length ≤ Config.memSize := .inr (by simp only [Config.memSize]; omega)
    exact ⟨_, _, memRead_eq_ok.2 ⟨hcheck, rfl⟩, memWrite_eq_ok.2 ⟨hcheck, rfl⟩, Memory.length_bytes _ _ _,
      fun k hk => Memory.getD_bytes m addr hk⟩
  · have hcheck : ¬(bytes.length = 0 ∨ addr + bytes.length ≤ Config.memSize) := by simp only [Config.memSize]; omega
    exact ⟨memRead_eq_error.2 ⟨hcheck, rfl⟩, memWrite_eq_error.2 ⟨hcheck, rfl⟩⟩

/-- Settles O30: a write of no bytes is no write, and any other passed the check, so it is a store inside memory. -/
theorem readAfterWriteGivesTheBytes : Obligations.ReadAfterWriteGivesTheBytes := by
  intro m m' addr bytes hm h
  have hwf : m'.wf = true := wf_memWrite hm h
  obtain ⟨hcheck, rfl⟩ := memWrite_eq_ok.1 h
  suffices hrw : bytes = (m.store addr bytes).bytes addr bytes.length ∧
      ∀ a, a < addr ∨ addr + bytes.length ≤ a → (m.store addr bytes).byteAt a = m.byteAt a from
    ⟨memRead_eq_ok.2 ⟨hcheck, hrw.1⟩, hrw.2, hwf⟩
  obtain h0 | hin := hcheck
  · obtain rfl := List.length_eq_zero_iff.1 h0
    exact ⟨rfl, fun _ _ => rfl⟩
  · refine ⟨(Memory.bytes_store hm hin).symm, fun a ha => ?_⟩
    rw [Memory.byteAt_store hm hin, if_neg (by omega)]

/-! ### The canonical form (assumption log 2) -/

namespace Memory

/-- A listed cell is seen by reading: a canonical list that says nothing up to its address reads differently there. -/
theorem byteAt_ne_of_head {lo a : Nat} {u : Byte} {rest m : Memory} (h : wfFrom lo ((a, u) :: rest) = true)
    (hm : wfFrom (a + 1) m = true) : byteAt ((a, u) :: rest) a ≠ m.byteAt a := by
  obtain ⟨-, -, hu, -⟩ := wfFrom_cons.1 h
  rwa [byteAt_cons, if_pos rfl, byteAt_of_lt hm a.lt_succ_self]

/-- Reading the rest of a canonical list: its first cell is gone, and all else is as before. -/
theorem byteAt_tail {lo a : Nat} {u : Byte} {rest : Memory} (h : wfFrom lo ((a, u) :: rest) = true) (b : Nat) :
    rest.byteAt b = if b = a then resetByte a else byteAt ((a, u) :: rest) b := by
  obtain ⟨-, -, -, hrest⟩ := wfFrom_cons.1 h
  split_ifs with hb
  · rw [hb, byteAt_of_lt hrest a.lt_succ_self]
  · rw [byteAt_cons, if_neg hb]

/-- Canonical lists that read alike at every address of memory are equal: the first cell of each is listed first by the other. -/
theorem eq_of_byteAt_eq {lo : Nat} {m m' : Memory} (hm : wfFrom lo m = true) (hm' : wfFrom lo m' = true)
    (h : ∀ a, a < Config.memSize → m.byteAt a = m'.byteAt a) : m = m' := by
  induction m generalizing lo m' with
  | nil =>
    cases m' with
    | nil => rfl
    | cons c' rest' =>
      obtain ⟨-, hb, -, -⟩ := wfFrom_cons.1 hm'
      exact absurd (h c'.1 hb).symm (byteAt_ne_of_head hm' rfl)
  | cons c rest ih =>
    obtain ⟨a, u⟩ := c
    obtain ⟨-, ha, hu, hrest⟩ := wfFrom_cons.1 hm
    cases m' with
    | nil => exact absurd (h a ha) (byteAt_ne_of_head hm rfl)
    | cons c' rest' =>
      obtain ⟨b, w⟩ := c'
      obtain ⟨-, hb, hw, hrest'⟩ := wfFrom_cons.1 hm'
      obtain hlt | rfl | hgt := Nat.lt_trichotomy a b
      · exact absurd (h a ha) (byteAt_ne_of_head hm (wfFrom_cons.2 ⟨hlt, hb, hw, hrest'⟩))
      · have huw : u = w := by simpa [byteAt_cons] using h a ha
        have htail : rest = rest' := ih hrest hrest' fun d hd => by
          rw [byteAt_tail hm, byteAt_tail hm', h d hd]
        rw [huw, htail]
      · exact absurd (h b hb).symm (byteAt_ne_of_head hm' (wfFrom_cons.2 ⟨hgt, ha, hu, hrest⟩))

end Memory

/-- Settles O31, by induction on one list against the first cell of the other. -/
theorem memoryIsDeterminedByItsBytes : Obligations.MemoryIsDeterminedByItsBytes :=
  fun _ _ hm hm' h => Memory.eq_of_byteAt_eq hm hm' h

/-! ### A store and the next fetch (R55, R64) -/

/-- A store at `I` that fits completes, and the next fetch sees it. -/
theorem storeAtI_nextFetchSeesStore {s : State} (hm : s.mem.wf = true) (hpc : s.pc.toNat + 3 ≤ 4095) {bytes : List Byte}
    (hb : s.dataAddr + bytes.length ≤ Config.memSize) {stored : Nat → Nat}
    (hs : ∀ k, k < bytes.length → (bytes.getD k 0).toNat = stored k) :
    ∃ t, storeAtI bytes s = .next t ∧ s.nextFetchSeesStore bytes.length stored t := by
  obtain ⟨-, h⟩ | ⟨hno, -⟩ := storeAtI_cases bytes s
  · have hpc' : (s.pc + 2#16).toNat = s.pc.toNat + 2 := by bv_omega
    refine ⟨_, h, hpc', _, fetchWord_eq_ok.2 ⟨?_, rfl⟩, ?_⟩
    · rw [State.advance_pc, State.setMem_pc, hpc', Config.memSize]
      omega
    · simp only [State.advance_pc, State.setMem_pc, State.advance_mem, State.setMem_mem, hpc', toNat_wordOfBytes,
        State.toNat_byteAt_storeAtI hm hb hs]
  · have hyes : inBounds s.dataAddr bytes.length = true := inBounds_iff.2 (.inr hb)
    simp [hyes] at hno

theorem execLdMemVx_nextFetchSeesStore (x : Reg) {s : State} (hm : s.mem.wf = true) (hpc : s.pc.toNat + 3 ≤ 4095)
    (hx : s.i.toNat + x.val ≤ 4095) :
    ∃ t, exec (.ldMemVx x) s = .next t ∧
      s.nextFetchSeesStore (x.val + 1) (fun k => (s.reg (Fin.ofNat 16 k)).toNat) t := by
  have hlen := s.length_regBlock x
  rw [← hlen]
  refine storeAtI_nextFetchSeesStore hm hpc ?_ fun k hk => ?_
  · simp only [hlen, State.dataAddr, Config.memSize]
    omega
  · have hkx : k ≤ x.val := by omega
    have hreg : (⟨k, by omega⟩ : Reg) = Fin.ofNat 16 k := Fin.ext (Nat.mod_eq_of_lt (by omega)).symm
    rw [s.getD_regBlock x hkx, hreg]

/-- Each digit fits its byte, so the byte stored has the digit's value (R134). -/
theorem toNat_getD_bcdDigits (u : Byte) {k : Nat} (hk : k < 3) :
    ((bcdDigits u).getD k 0).toNat = [u.toNat / 100, u.toNat / 10 % 10, u.toNat % 10].getD k 0 := by
  have hu := u.isLt
  match k, hk with
  | 0, _ | 1, _ | 2, _ =>
    simp only [bcdDigits, List.getD_cons_zero, List.getD_cons_succ, BitVec.toNat_ofNat]
    omega

theorem execLdB_nextFetchSeesStore (x : Reg) {s : State} (hm : s.mem.wf = true) (hpc : s.pc.toNat + 3 ≤ 4095)
    (hi : s.i.toNat + 2 ≤ 4095) :
    ∃ t, exec (.ldB x) s = .next t ∧
      s.nextFetchSeesStore 3
        (fun k => [(s.reg x).toNat / 100, (s.reg x).toNat / 10 % 10, (s.reg x).toNat % 10].getD k 0) t := by
  refine storeAtI_nextFetchSeesStore hm hpc (bytes := bcdDigits (s.reg x)) ?_ fun k hk => toNat_getD_bcdDigits _ hk
  simp only [length_bcdDigits, State.dataAddr, Config.memSize]
  omega

theorem State.byteAfterStore_of_lt (s : State) {n k : Nat} (stored : Nat → Nat) (h : k < n) :
    s.byteAfterStore n stored (s.i.toNat + k) = stored k := by
  unfold State.byteAfterStore State.dataAddr
  rw [if_pos (by omega), Nat.add_sub_cancel_left]

/-- Settles O32: both stores are a store at `I`, and a store over the next two bytes puts its own first bytes there. -/
theorem storedWordIsFetchedNext : Obligations.StoredWordIsFetchedNext := by
  intro x s hm hpc
  refine ⟨execLdMemVx_nextFetchSeesStore x hm hpc, execLdB_nextFetchSeesStore x hm hpc, fun hx hi hfit => ?_⟩
  obtain ⟨t, ht, htpc, w, hw, hword⟩ := execLdMemVx_nextFetchSeesStore x hm hpc hfit
  refine ⟨t, w, ht, BitVec.eq_of_toNat_eq (htpc.trans hi.symm), hw, ?_⟩
  have hown {k : Nat} (hk : k < x.val + 1) :=
    s.byteAfterStore_of_lt (fun k => (s.reg (Fin.ofNat 16 k)).toNat) hk
  rw [hi] at hown
  rw [hword, hown (k := 0) (by omega), hown (k := 1) (by omega)]
  rfl

/-! ### The word that `withFetchWord` places (R55, R161; assumption log 22) -/

/-- A `Step` in a state that executes an operation is that operation, after the timers (R161). -/
theorem stepEvent_of_executes {s : State} {i : Instr} (h : s.executes i) : stepEvent s = exec i s.tickTimers := by
  obtain ⟨hfault, hwait, w, hfetch, hdecode⟩ := h
  simp [stepEvent, fetchDecodeExecute, hfault, hwait, hfetch, hdecode]

theorem decodeTableWord_eq_some {nbits w : Nat} {i : Instr} :
    decodeTableWord nbits w = some i ↔ decodeWord (tableWord nbits w) = .ok i := by
  simp only [decodeTableWord, bytesOfWord, decodeBytes, wordOfBytes_high_low]
  cases decodeWord (tableWord nbits w) <;> simp

/-- The fetch gives back a word whose two bytes were stored there. -/
theorem fetchWord_store_bytesOfWord {m : Memory} (hm : m.wf = true) {pc : Nat} (hpc : pc + 1 < Config.memSize) (w : Word) :
    fetchWord (m.store pc (bytesOfWord w)) pc = .ok w := by
  have hread := Memory.byteAt_store hm (addr := pc) (bytes := bytesOfWord w) hpc
  have hhigh : (m.store pc (bytesOfWord w)).byteAt pc = highByte w := by rw [hread]; simp [bytesOfWord]
  have hlow : (m.store pc (bytesOfWord w)).byteAt (pc + 1) = lowByte w := by rw [hread]; simp [bytesOfWord]
  exact fetchWord_eq_ok.2 ⟨hpc, by rw [hhigh, hlow, wordOfBytes_high_low]⟩

theorem placePc_fits (s : State) : (placePc s).toNat + 1 < Config.memSize := by
  unfold placePc
  split_ifs with h
  · exact h
  · decide

theorem executes_placeWord {s : State} (hm : s.mem.wf = true) {w : Word} {i : Instr} (h : decodeWord w = .ok i) :
    (s.placeWord w).executes i :=
  ⟨rfl, rfl, w, fetchWord_store_bytesOfWord hm (placePc_fits s) w, h⟩

/-- Settles O28: the placed state executes the word, and its empty schedule makes the next event a `Step`. -/
theorem placedWordIsRunByTheNextStep : Obligations.PlacedWordIsRunByTheNextStep := fun _ _ _ hm h =>
  stepEvent_of_executes (executes_placeWord hm (decodeTableWord_eq_some.1 h))

end Sys2Proof.Machine

/-! PROOFS. The encoding family (spec/30_encoding.md): the dispatch of R74, the match and mask table of R75 and the encoder of R80
say the same of every word and every operation; the failure classes of R77. -/

namespace Sys2Proof

/-! ### The fields of a word as digits of its value (R10, R71) -/

theorem toNat_fieldOp (w : Word) : (fieldOp w).toNat = w.toNat / 4096 := by
  have := w.isLt
  simp only [fieldOp, BitVec.extractLsb'_toNat, Nat.shiftRight_eq_div_pow]
  omega

theorem val_fieldX (w : Word) : (fieldX w).val = w.toNat / 256 % 16 := by
  simp [fieldX, Nat.shiftRight_eq_div_pow]

theorem val_fieldY (w : Word) : (fieldY w).val = w.toNat / 16 % 16 := by
  simp [fieldY, Nat.shiftRight_eq_div_pow]

theorem val_fieldN (w : Word) : (fieldN w).val = w.toNat % 16 := by
  simp [fieldN]

theorem toNat_fieldKK (w : Word) : (fieldKK w).toNat = w.toNat % 256 := by
  simp [fieldKK]

theorem toNat_fieldNNN (w : Word) : (fieldNNN w).toNat = w.toNat % 4096 := by
  simp [fieldNNN]

/-! ### The encoder as addition: the operand fields lie apart from each other and from the pattern (R72) -/

/-- Words that a mask keeps apart are joined by `OR` as by addition. -/
theorem toNat_or_of_mask {a b m : Word} (ha : a &&& m = 0#16) (hb : b &&& m = b) :
    (a ||| b).toNat = a.toNat + b.toNat := by
  have hab : a &&& b = 0#16 := by
    rw [← hb, BitVec.and_comm b, ← BitVec.and_assoc, ha, BitVec.zero_and]
  rw [← BitVec.add_eq_or_of_and_eq_zero a b hab, BitVec.toNat_add_of_and_eq_zero hab]

theorem toNat_placeX (x : Reg) : (placeX x).toNat = x.val * 256 := by revert x; decide
theorem toNat_placeY (y : Reg) : (placeY y).toNat = y.val * 16 := by revert y; decide
theorem toNat_placeN (n : RowCount) : (placeN n).toNat = n.val := by revert n; decide

theorem toNat_zextImm (nnn : Imm12) : (zextImm nnn).toNat = nnn.toNat := BitVec.toNat_setWidth_of_le (by decide)

theorem toNat_placeX_zext16 (x : Reg) (kk : Byte) : (placeX x ||| zext16 kk).toNat = x.val * 256 + kk.toNat := by
  have hkk : zext16 kk &&& 0xF0FF#16 = zext16 kk := by revert kk; decide
  rw [toNat_or_of_mask (placeX_byteMask x) hkk, toNat_placeX, zext16, BitVec.toNat_setWidth_of_le (by decide)]

theorem toNat_placeX_placeY (x y : Reg) : (placeX x ||| placeY y).toNat = x.val * 256 + y.val * 16 := by
  have hy : placeY y &&& 0xF0FF#16 = placeY y := by revert y; decide
  rw [toNat_or_of_mask (placeX_byteMask x) hy, toNat_placeX, toNat_placeY]

theorem toNat_placeX_placeY_placeN (x y : Reg) (n : RowCount) :
    (placeX x ||| placeY y ||| placeN n).toNat = x.val * 256 + y.val * 16 + n.val := by
  have hxy : (placeX x ||| placeY y) &&& 0xF00F#16 = 0#16 := by
    rw [BitVec.and_or_distrib_right, placeX_subMask, placeY_subMask, BitVec.or_zero]
  have hn : placeN n &&& 0xF00F#16 = placeN n := by revert n; decide
  rw [toNat_or_of_mask hxy hn, toNat_placeX_placeY, toNat_placeN]

namespace Instr

theorem pattern_and_mask (i : Instr) : i.row.pattern &&& i.row.mask = i.row.pattern := by
  cases i <;> simp only [row] <;> rfl

/-- The operand fields lie under the zero bits of the row's mask. -/
theorem operandBits_and_mask (i : Instr) : i.operandBits &&& i.row.mask = 0#16 := by
  cases i with
  | cls | ret => rfl
  | jp nnn | call nnn | ldI nnn | jpV0 nnn => exact zextImm_opMask nnn
  | seImm x kk | sneImm x kk | ldImm x kk | addImm x kk | rnd x kk =>
    simp [operandBits, row, BitVec.and_or_distrib_right, placeX_opMask, zext16_opMask]
  | seReg x y | sneReg x y | ldReg x y | orReg x y | andReg x y | xorReg x y | addReg x y | sub x y | shr x y | subn x y
  | shl x y => simp [operandBits, row, BitVec.and_or_distrib_right, placeX_subMask, placeY_subMask]
  | drw x y n =>
    simp [operandBits, row, BitVec.and_or_distrib_right, placeX_opMask, placeY_opMask, placeN_opMask]
  | skp x | sknp x | ldVxDT x | ldVxK x | ldDTVx x | ldSTVx x | addI x | ldF x | ldB x | ldMemVx x | ldVxMem x =>
    exact placeX_byteMask x

/-- An encoded operation is selected by its row (R75, R80). -/
theorem selects_encode (i : Instr) : i.row.selects (encode i) = true := by
  rw [OpcodeRow.selects, encode, BitVec.and_or_distrib_right, pattern_and_mask, operandBits_and_mask, BitVec.or_zero,
    beq_self_eq_true]

theorem toNat_encode (i : Instr) : (encode i).toNat = i.row.pattern.toNat + i.operandBits.toNat := by
  rw [encode, BitVec.or_comm, toNat_or_of_mask i.operandBits_and_mask i.pattern_and_mask, Nat.add_comm]

/-- The operation of the same row with its operands read from a word (R83). -/
def withFieldsOf (w : Word) : Instr → Instr
  | .cls => .cls
  | .ret => .ret
  | .jp _ => .jp (fieldNNN w)
  | .call _ => .call (fieldNNN w)
  | .seImm _ _ => .seImm (fieldX w) (fieldKK w)
  | .sneImm _ _ => .sneImm (fieldX w) (fieldKK w)
  | .seReg _ _ => .seReg (fieldX w) (fieldY w)
  | .ldImm _ _ => .ldImm (fieldX w) (fieldKK w)
  | .addImm _ _ => .addImm (fieldX w) (fieldKK w)
  | .ldReg _ _ => .ldReg (fieldX w) (fieldY w)
  | .orReg _ _ => .orReg (fieldX w) (fieldY w)
  | .andReg _ _ => .andReg (fieldX w) (fieldY w)
  | .xorReg _ _ => .xorReg (fieldX w) (fieldY w)
  | .addReg _ _ => .addReg (fieldX w) (fieldY w)
  | .sub _ _ => .sub (fieldX w) (fieldY w)
  | .shr _ _ => .shr (fieldX w) (fieldY w)
  | .subn _ _ => .subn (fieldX w) (fieldY w)
  | .shl _ _ => .shl (fieldX w) (fieldY w)
  | .sneReg _ _ => .sneReg (fieldX w) (fieldY w)
  | .ldI _ => .ldI (fieldNNN w)
  | .jpV0 _ => .jpV0 (fieldNNN w)
  | .rnd _ _ => .rnd (fieldX w) (fieldKK w)
  | .drw _ _ _ => .drw (fieldX w) (fieldY w) (fieldN w)
  | .skp _ => .skp (fieldX w)
  | .sknp _ => .sknp (fieldX w)
  | .ldVxDT _ => .ldVxDT (fieldX w)
  | .ldVxK _ => .ldVxK (fieldX w)
  | .ldDTVx _ => .ldDTVx (fieldX w)
  | .ldSTVx _ => .ldSTVx (fieldX w)
  | .addI _ => .addI (fieldX w)
  | .ldF _ => .ldF (fieldX w)
  | .ldB _ => .ldB (fieldX w)
  | .ldMemVx _ => .ldMemVx (fieldX w)
  | .ldVxMem _ => .ldVxMem (fieldX w)

theorem row_withFieldsOf (w : Word) (i : Instr) : (i.withFieldsOf w).row = i.row := by cases i <;> rfl

end Instr

/-! ### From the table to the dispatch: the row that selects a word fixes the fields the dispatch looks at (R74, R75) -/

/-- Where the mask is all ones, a selected word has the pattern's bits. -/
theorem OpcodeRow.extract_of_selects {r : OpcodeRow} {w : Word} (h : r.selects w = true) {start len : Nat}
    (hmask : r.mask.extractLsb' start len = BitVec.allOnes len) :
    w.extractLsb' start len = r.pattern.extractLsb' start len := by
  rw [← eq_of_beq h, BitVec.extractLsb'_and, hmask, BitVec.and_allOnes]

theorem fieldOp_of_selects {i : Instr} {w : Word} (h : i.row.selects w = true) : fieldOp w = fieldOp i.row.pattern :=
  OpcodeRow.extract_of_selects h (by cases i <;> simp [Instr.row])

theorem fieldN_of_selects {r : OpcodeRow} {w : Word} (h : r.selects w = true) (hmask : r.mask = 0xF00F#16) :
    fieldN w = fieldN r.pattern :=
  congrArg BitVec.toFin (OpcodeRow.extract_of_selects h (start := 0) (len := 4) (by rw [hmask]; rfl))

theorem fieldKK_of_selects {r : OpcodeRow} {w : Word} (h : r.selects w = true) (hmask : r.mask = 0xF0FF#16) :
    fieldKK w = fieldKK r.pattern :=
  OpcodeRow.extract_of_selects h (by rw [hmask]; rfl)

theorem eq_pattern_of_selects {r : OpcodeRow} {w : Word} (h : r.selects w = true) (hmask : r.mask = 0xFFFF#16) :
    w = r.pattern := by
  rw [← eq_of_beq h, hmask]
  exact BitVec.and_allOnes.symm

/-- A word that an operation's row selects decodes to that operation, with its operands read from the word. -/
theorem decodeWord_of_selects {i : Instr} {w : Word} (h : i.row.selects w = true) :
    decodeWord w = .ok (i.withFieldsOf w) := by
  have hop := fieldOp_of_selects h
  cases i with
  | cls | ret => rw [eq_pattern_of_selects h rfl]; rfl
  | jp _ | call _ | seImm _ _ | sneImm _ _ | ldImm _ _ | addImm _ _ | ldI _ | jpV0 _ | rnd _ _ | drw _ _ _ =>
    simp only [Instr.row] at hop
    rw [decodeWord, hop]; rfl
  | seReg _ _ | sneReg _ _ =>
    have hn := fieldN_of_selects h rfl
    simp only [Instr.row] at hop hn
    rw [decodeWord, hop, hn]; rfl
  | ldReg _ _ | orReg _ _ | andReg _ _ | xorReg _ _ | addReg _ _ | sub _ _ | shr _ _ | subn _ _ | shl _ _ =>
    have hn := fieldN_of_selects h rfl
    simp only [Instr.row] at hop hn
    rw [decodeWord, hop, decodeFamily8, hn]; rfl
  | skp _ | sknp _ =>
    have hkk := fieldKK_of_selects h rfl
    simp only [Instr.row] at hop hkk
    rw [decodeWord, hop, decodeFamilyE, hkk]; rfl
  | ldVxDT _ | ldVxK _ | ldDTVx _ | ldSTVx _ | addI _ | ldF _ | ldB _ | ldMemVx _ | ldVxMem _ =>
    have hkk := fieldKK_of_selects h rfl
    simp only [Instr.row] at hop hkk
    rw [decodeWord, hop, decodeFamilyF, hkk]; rfl

/-! ### Encode, then decode: the operands of an encoded operation are the fields of the word, format by format (R72) -/

section
variable {w : Word} {p : Nat}

theorem fieldNNN_eq_of_toNat {nnn : Imm12} (hw : w.toNat = p + nnn.toNat) (hp : p % 4096 = 0) : fieldNNN w = nnn :=
  BitVec.eq_of_toNat_eq (by rw [toNat_fieldNNN]; omega)

theorem fieldX_eq_of_toNat {x : Reg} (hw : w.toNat = p + x.val * 256) (hp : p % 4096 < 256) : fieldX w = x :=
  Fin.ext (by rw [val_fieldX]; omega)

theorem fieldX_fieldKK_eq_of_toNat {x : Reg} {kk : Byte} (hw : w.toNat = p + (x.val * 256 + kk.toNat))
    (hp : p % 4096 = 0) : fieldX w = x ∧ fieldKK w = kk :=
  ⟨Fin.ext (by rw [val_fieldX]; omega), BitVec.eq_of_toNat_eq (by rw [toNat_fieldKK]; omega)⟩

theorem fieldX_fieldY_eq_of_toNat {x y : Reg} (hw : w.toNat = p + (x.val * 256 + y.val * 16)) (hp : p % 4096 < 16) :
    fieldX w = x ∧ fieldY w = y :=
  ⟨Fin.ext (by rw [val_fieldX]; omega), Fin.ext (by rw [val_fieldY]; omega)⟩

theorem fieldX_fieldY_fieldN_eq_of_toNat {x y : Reg} {n : RowCount}
    (hw : w.toNat = p + (x.val * 256 + y.val * 16 + n.val)) (hp : p % 4096 = 0) :
    fieldX w = x ∧ fieldY w = y ∧ fieldN w = n :=
  ⟨Fin.ext (by rw [val_fieldX]; omega), Fin.ext (by rw [val_fieldY]; omega), Fin.ext (by rw [val_fieldN]; omega)⟩

end

theorem withFieldsOf_encode (i : Instr) : i.withFieldsOf (encode i) = i := by
  have hw := i.toNat_encode
  cases i with
  | cls | ret => rfl
  | jp nnn | call nnn | ldI nnn | jpV0 nnn =>
    simp only [Instr.row, Instr.operandBits, toNat_zextImm] at hw
    rw [Instr.withFieldsOf, fieldNNN_eq_of_toNat hw (by decide)]
  | seImm x kk | sneImm x kk | ldImm x kk | addImm x kk | rnd x kk =>
    simp only [Instr.row, Instr.operandBits, toNat_placeX_zext16] at hw
    obtain ⟨hx, hkk⟩ := fieldX_fieldKK_eq_of_toNat hw (by decide)
    rw [Instr.withFieldsOf, hx, hkk]
  | seReg x y | sneReg x y | ldReg x y | orReg x y | andReg x y | xorReg x y | addReg x y | sub x y | shr x y | subn x y
  | shl x y =>
    simp only [Instr.row, Instr.operandBits, toNat_placeX_placeY] at hw
    obtain ⟨hx, hy⟩ := fieldX_fieldY_eq_of_toNat hw (by decide)
    rw [Instr.withFieldsOf, hx, hy]
  | drw x y n =>
    simp only [Instr.row, Instr.operandBits, toNat_placeX_placeY_placeN] at hw
    obtain ⟨hx, hy, hn⟩ := fieldX_fieldY_fieldN_eq_of_toNat hw (by decide)
    rw [Instr.withFieldsOf, hx, hy, hn]
  | skp x | sknp x | ldVxDT x | ldVxK x | ldDTVx x | ldSTVx x | addI x | ldF x | ldB x | ldMemVx x | ldVxMem x =>
    simp only [Instr.row, Instr.operandBits, toNat_placeX] at hw
    rw [Instr.withFieldsOf, fieldX_eq_of_toNat hw (by decide)]

/-- An encoded operation is selected by its row, so it decodes to that operation with the fields of the word. -/
theorem decodeWord_encode (i : Instr) : decodeWord (encode i) = .ok i := by
  rw [decodeWord_of_selects i.selects_encode, withFieldsOf_encode]

/-! ### A dispatch by tests in turn (R74) -/

section
variable {c : Prop} [Decidable c] {i j : Instr} {rest : Except DecodeError Instr} {e : DecodeError}

theorem of_ite_ok_eq_ok (h : (if c then .ok i else rest) = Except.ok j) : (c ∧ i = j) ∨ rest = .ok j := by
  split at h
  · next hc => cases h; exact .inl ⟨hc, rfl⟩
  · exact .inr h

theorem ite_ok_eq_error : (if c then .ok i else rest) = Except.error e ↔ ¬c ∧ rest = .error e := by
  split <;> simp [*]

end

/-! ### Decode, then encode: pattern and fields add up to the word, format by format (R72) -/

section
variable {w : Word} {i : Instr}

theorem encode_eq_of_toNat (h : i.row.pattern.toNat + i.operandBits.toNat = w.toNat) : encode i = w :=
  BitVec.eq_of_toNat_eq (i.toNat_encode.trans h)

theorem encode_eq_of_nnn (hbits : i.operandBits = zextImm (fieldNNN w))
    (hpattern : i.row.pattern.toNat = w.toNat / 4096 * 4096) : encode i = w :=
  encode_eq_of_toNat (by rw [hbits, hpattern, toNat_zextImm, toNat_fieldNNN]; omega)

theorem encode_eq_of_xkk (hbits : i.operandBits = placeX (fieldX w) ||| zext16 (fieldKK w))
    (hpattern : i.row.pattern.toNat = w.toNat / 4096 * 4096) : encode i = w :=
  encode_eq_of_toNat (by rw [hbits, hpattern, toNat_placeX_zext16, val_fieldX, toNat_fieldKK]; omega)

theorem encode_eq_of_xyn (hbits : i.operandBits = placeX (fieldX w) ||| placeY (fieldY w) ||| placeN (fieldN w))
    (hpattern : i.row.pattern.toNat = w.toNat / 4096 * 4096) : encode i = w :=
  encode_eq_of_toNat
    (by rw [hbits, hpattern, toNat_placeX_placeY_placeN, val_fieldX, val_fieldY, val_fieldN]; omega)

theorem encode_eq_of_xy (hbits : i.operandBits = placeX (fieldX w) ||| placeY (fieldY w))
    (hpattern : i.row.pattern.toNat = w.toNat / 4096 * 4096 + w.toNat % 16) : encode i = w :=
  encode_eq_of_toNat (by rw [hbits, hpattern, toNat_placeX_placeY, val_fieldX, val_fieldY]; omega)

theorem encode_eq_of_x (hbits : i.operandBits = placeX (fieldX w))
    (hpattern : i.row.pattern.toNat = w.toNat / 4096 * 4096 + w.toNat % 256) : encode i = w :=
  encode_eq_of_toNat (by rw [hbits, hpattern, toNat_placeX, val_fieldX]; omega)

theorem encode_of_decodeFamily0 (h : decodeFamily0 w = .ok i) : encode i = w := by
  unfold decodeFamily0 at h
  obtain ⟨hcls, rfl⟩ | h := of_ite_ok_eq_ok h
  · rw [hcls]; rfl
  obtain ⟨hret, rfl⟩ | h := of_ite_ok_eq_ok h
  · rw [hret]; rfl
  cases h

theorem encode_of_decodeFamily8 (hop : w.toNat / 4096 = 0x8) (h : decodeFamily8 w = .ok i) : encode i = w := by
  unfold decodeFamily8 at h
  rw [val_fieldN] at h
  split at h <;> cases h
  all_goals next hn => exact encode_eq_of_xy rfl (by rw [hop, hn, Instr.row]; rfl)

theorem encode_of_decodeFamilyE (hop : w.toNat / 4096 = 0xE) (h : decodeFamilyE w = .ok i) : encode i = w := by
  unfold decodeFamilyE at h
  iterate 2
    obtain ⟨hkk, rfl⟩ | h := of_ite_ok_eq_ok h
    · exact encode_eq_of_x rfl (by rw [hop, ← toNat_fieldKK, hkk, Instr.row]; rfl)
  cases h

theorem encode_of_decodeFamilyF (hop : w.toNat / 4096 = 0xF) (h : decodeFamilyF w = .ok i) : encode i = w := by
  unfold decodeFamilyF at h
  iterate 9
    obtain ⟨hkk, rfl⟩ | h := of_ite_ok_eq_ok h
    · exact encode_eq_of_x rfl (by rw [hop, ← toNat_fieldKK, hkk, Instr.row]; rfl)
  cases h

theorem encode_of_decodeWord (h : decodeWord w = .ok i) : encode i = w := by
  have hlt := w.isLt
  unfold decodeWord at h
  rw [toNat_fieldOp] at h
  split at h
  case h_1 => exact encode_of_decodeFamily0 h
  case h_2 hop | h_3 hop | h_11 hop | h_12 hop => cases h; exact encode_eq_of_nnn rfl (by rw [hop, Instr.row]; rfl)
  case h_4 hop | h_5 hop | h_7 hop | h_8 hop | h_13 hop =>
    cases h; exact encode_eq_of_xkk rfl (by rw [hop, Instr.row]; rfl)
  case h_14 hop => cases h; exact encode_eq_of_xyn rfl (by rw [hop, Instr.row]; rfl)
  case h_6 hop | h_10 hop =>
    split_ifs at h with hn
    cases h
    exact encode_eq_of_xy rfl (by rw [hop, ← val_fieldN, hn, Instr.row]; rfl)
  case h_9 hop => exact encode_of_decodeFamily8 hop h
  case h_15 hop => exact encode_of_decodeFamilyE hop h
  case h_16 =>
    simp only [imp_false] at *
    exact encode_of_decodeFamilyF (by omega) h

end

/-- Settles O3: an encoded operation is selected by its row and has its operands for fields; in a decoded word the fields of the
dispatch are the row's pattern, and the others are the operands. -/
theorem encodeAndDecodeAreInverse : Obligations.EncodeAndDecodeAreInverse :=
  ⟨fun _ => rfl, fun i _ => decodeWord_encode i, fun _ _ h => encode_of_decodeWord h⟩

/-- The word that an operation's pattern and the value of its operand fields add up to decodes to the operation. -/
theorem decodeWord_ofNat (i : Instr) {v : Nat} (hv : i.operandBits.toNat = v) :
    decodeWord (BitVec.ofNat 16 (i.row.pattern.toNat + v)) = .ok i := by
  rw [← hv, ← i.toNat_encode, BitVec.ofNat_toNat, BitVec.setWidth_eq, decodeWord_encode]

/-- Settles O2: in each pattern the digits of the operands are the value of the encoder's operand fields. -/
theorem everyPatternDecodesWithItsOperands : Obligations.EveryPatternDecodesWithItsOperands := by
  intro x y n kk nnn X XY XKK NNN dec
  have hX : (placeX x).toNat = X := toNat_placeX x
  have hXY : (placeX x ||| placeY y).toNat = XY := toNat_placeX_placeY x y
  have hXKK : (placeX x ||| zext16 kk).toNat = XKK := toNat_placeX_zext16 x kk
  have hNNN : (zextImm nnn).toNat = NNN := toNat_zextImm nnn
  have hXYN : (placeX x ||| placeY y ||| placeN n).toNat = XY + n.val := toNat_placeX_placeY_placeN x y n
  have hDrw : dec (0xD000 + XY + n.val) = .ok (.drw x y n) := by
    rw [Nat.add_assoc]
    exact decodeWord_ofNat (.drw x y n) hXYN
  exact
   ⟨decodeWord_ofNat .cls rfl, decodeWord_ofNat .ret rfl, decodeWord_ofNat (.jp nnn) hNNN,
    decodeWord_ofNat (.call nnn) hNNN, decodeWord_ofNat (.seImm x kk) hXKK, decodeWord_ofNat (.sneImm x kk) hXKK,
    decodeWord_ofNat (.seReg x y) hXY, decodeWord_ofNat (.ldImm x kk) hXKK, decodeWord_ofNat (.addImm x kk) hXKK,
    decodeWord_ofNat (.ldReg x y) hXY, decodeWord_ofNat (.orReg x y) hXY, decodeWord_ofNat (.andReg x y) hXY,
    decodeWord_ofNat (.xorReg x y) hXY, decodeWord_ofNat (.addReg x y) hXY, decodeWord_ofNat (.sub x y) hXY,
    decodeWord_ofNat (.shr x y) hXY, decodeWord_ofNat (.subn x y) hXY, decodeWord_ofNat (.shl x y) hXY,
    decodeWord_ofNat (.sneReg x y) hXY, decodeWord_ofNat (.ldI nnn) hNNN, decodeWord_ofNat (.jpV0 nnn) hNNN,
    decodeWord_ofNat (.rnd x kk) hXKK, hDrw, decodeWord_ofNat (.skp x) hX, decodeWord_ofNat (.sknp x) hX,
    decodeWord_ofNat (.ldVxDT x) hX, decodeWord_ofNat (.ldVxK x) hX, decodeWord_ofNat (.ldDTVx x) hX,
    decodeWord_ofNat (.ldSTVx x) hX, decodeWord_ofNat (.addI x) hX, decodeWord_ofNat (.ldF x) hX,
    decodeWord_ofNat (.ldB x) hX, decodeWord_ofNat (.ldMemVx x) hX, decodeWord_ofNat (.ldVxMem x) hX⟩

/-! ### The opcode map and the dispatch agree (R74, R75) -/

theorem Instr.row_mem_opcodeMap (i : Instr) : i.row ∈ opcodeMap := by
  cases i <;> simp only [row] <;> decide

/-- Every row is the row of the operation its pattern decodes to. -/
theorem row_of_decoded_pattern : ∀ r ∈ opcodeMap, (decodeWord r.pattern).map Instr.row = .ok r := by decide

theorem exists_row_eq {r : OpcodeRow} (hr : r ∈ opcodeMap) : ∃ i : Instr, i.row = r := by
  have h := row_of_decoded_pattern r hr
  cases hd : decodeWord r.pattern with
  | ok i => rw [hd] at h; cases h; exact ⟨i, rfl⟩
  | error e => rw [hd] at h; cases h

theorem exists_decodeWord_of_selects {r : OpcodeRow} (hr : r ∈ opcodeMap) {w : Word} (hw : r.selects w = true) :
    ∃ i, decodeWord w = .ok i ∧ i.row = r := by
  obtain ⟨i, rfl⟩ := exists_row_eq hr
  exact ⟨i.withFieldsOf w, decodeWord_of_selects hw, i.row_withFieldsOf w⟩

/-- Settles O4: a decoded word is its operation's encoding, which the row selects; a selecting row's operation is the decoded one,
so a word that fails is selected by none. -/
theorem dispatchAgreesWithOpcodeMap : Obligations.DispatchAgreesWithOpcodeMap := by
  intro w
  refine ⟨fun i h => ⟨i.row_mem_opcodeMap, ?_⟩, fun r hr hw => exists_decodeWord_of_selects hr hw,
    fun e h => ⟨Machine.decodeWord_error h, fun r hr => Bool.eq_false_iff.2 fun hw => ?_⟩⟩
  · rw [← encode_of_decodeWord h]
    exact i.selects_encode
  · obtain ⟨i, hi, -⟩ := exists_decodeWord_of_selects hr hw
    rw [h] at hi
    cases hi

/-! ### The six classes of words that do not decode (R77) -/

theorem decodeFamily0_eq_error {w : Word} :
    decodeFamily0 w = .error (.unrecognised w) ↔ w ≠ 0x00E0#16 ∧ w ≠ 0x00EE#16 := by
  simp [decodeFamily0, ite_ok_eq_error]

theorem decodeFamily8_eq_error {w : Word} :
    decodeFamily8 w = .error (.unrecognised w) ↔ w.toNat % 16 ∈ [0x8, 0x9, 0xA, 0xB, 0xC, 0xD, 0xF] := by
  unfold decodeFamily8
  rw [val_fieldN]
  split
  case h_10 =>
    simp only [imp_false] at *
    simp only [List.mem_cons, List.not_mem_nil, or_false, true_iff]
    omega
  all_goals simp [*]

theorem decodeFamilyE_eq_error {w : Word} :
    decodeFamilyE w = .error (.unrecognised w) ↔ w.toNat % 256 ∉ [0x9E, 0xA1] := by
  simp [decodeFamilyE, ite_ok_eq_error, ← toNat_fieldKK, ← BitVec.toNat_inj]

theorem decodeFamilyF_eq_error {w : Word} :
    decodeFamilyF w = .error (.unrecognised w) ↔
      w.toNat % 256 ∉ [0x07, 0x0A, 0x15, 0x18, 0x1E, 0x29, 0x33, 0x55, 0x65] := by
  simp [decodeFamilyF, ite_ok_eq_error, ← toNat_fieldKK, ← BitVec.toNat_inj]

/-- Settles O5: a failure is one of the family its top nibble dispatches to. -/
theorem decodeFailuresAreTheSixClasses : Obligations.DecodeFailuresAreTheSixClasses := by
  intro w
  have hlt := w.isLt
  have hn : fieldN w = 0 ↔ w.toNat % 16 = 0 := by rw [Fin.ext_iff, val_fieldN]; rfl
  dsimp only
  unfold decodeWord
  rw [toNat_fieldOp]
  split
  case h_1 hop => simp [hop, decodeFamily0_eq_error]
  case h_6 hop | h_10 hop => simp [hop, hn]
  case h_9 hop => simp [hop, decodeFamily8_eq_error]
  case h_15 hop => simp [hop, decodeFamilyE_eq_error]
  case h_16 =>
    simp only [imp_false] at *
    have hop : w.toNat / 4096 = 0xF := by omega
    simp [hop, decodeFamilyF_eq_error]
  all_goals simp [*]

/-- Settles O1, by evaluation of the decoder. -/
theorem sampleWordsDecode : Obligations.SampleWordsDecode := by
  unfold Obligations.SampleWordsDecode
  decide

end Sys2Proof

namespace Sys2Proof.Machine

/-! ### A fetched word that does not decode (R77, R79, R164) -/

theorem step_of_decodeWord_error {s : State} {w : Word} {e : DecodeError} (hevent : s.nextEvent = .step)
    (hfault : s.fault = none) (hwait : s.wait = none) (hfetch : fetchWord s.mem s.pc.toNat = .ok w)
    (hdecode : decodeWord w = .error e) : step s = takeFault (.decodeError w) s.consumeEvent.tickTimers := by
  simp [step, handleEvent, stepEvent, fetchDecodeExecute, hevent, hfault, hwait, hfetch, hdecode]

/-- Settles O9: two zero bytes are fetched as the word 0, which no row selects. -/
theorem zeroedMemoryDoesNotExecute : Obligations.ZeroedMemoryDoesNotExecute := by
  intro s hevent hfault hwait hpc hhigh hlow
  have hfetch : fetchWord s.mem s.pc.toNat = .ok 0x0000#16 :=
    fetchWord_eq_ok.2 ⟨Nat.lt_succ_of_le hpc, by rw [hhigh, hlow]; rfl⟩
  have hdecode : decodeWord 0x0000#16 = .error (.unrecognised 0x0000#16) := rfl
  exact ⟨_, step_of_decodeWord_error hevent hfault hwait hfetch hdecode, rfl, rfl,
    fun p hp => by cases p <;> simp [Part.same] at hp ⊢⟩

end Sys2Proof.Machine

/-! PROOFS. The control-flow family (spec/40_control_flow.md): the jumps, the call and the return with the stack between them,
and the skips. -/

namespace Sys2Proof.Machine

/-! ### The jumps (R100, R107) -/

theorem zextImm_eq_ofNat (nnn : Imm12) : zextImm nnn = BitVec.ofNat 16 nnn.toNat := (BitVec.ofNat_toNat 16 nnn).symm

theorem zext16_eq_ofNat (u : Byte) : zext16 u = BitVec.ofNat 16 u.toNat := (BitVec.ofNat_toNat 16 u).symm

theorem exec_jp (nnn : Imm12) (s : State) : exec (.jp nnn) s = .next (s.setPc (zextImm nnn)) := rfl

theorem exec_jpV0 (nnn : Imm12) (s : State) :
    exec (.jpV0 nnn) s = .next (s.setPc (zextImm nnn + zext16 (s.reg 0))) := rfl

/-- Settles O33: the zero extensions are the numbers themselves, and their sum on 16 bits is that of the numbers. -/
theorem jumpsWriteOnlyThePc : Obligations.JumpsWriteOnlyThePc := by
  intro nnn s
  constructor
  · rw [exec_jp, zextImm_eq_ofNat, State.setPc]
  · rw [exec_jpV0, zextImm_eq_ofNat, zext16_eq_ofNat, ← BitVec.ofNat_add, State.setPc]

/-! ### What the call and the return answer on each side of their checks (R101, R102) -/

theorem exec_call_of_lt (nnn : Imm12) {s : State} (h : s.sp.val < 16) :
    exec (.call nnn) s = .next ((s.pushFrame (s.pc + 2#16) h).setPc (zextImm nnn)) := dif_pos h

theorem exec_call_of_full (nnn : Imm12) {s : State} (h : s.sp = 16) :
    exec (.call nnn) s = .next (s.recordFault (.stackError .overflow)) := dif_neg (by rw [h]; decide)

theorem exec_ret_of_pos {s : State} (h : 0 < s.sp.val) :
    exec .ret s = .next (s.dropFrame.setPc (s.topFrame h)) := dif_pos h

theorem exec_ret_of_empty {s : State} (h : s.sp = 0) :
    exec .ret s = .next (s.recordFault (.stackError .underflow)) := dif_neg (by rw [h]; decide)

/-! ### The stack between a push and a pop (R26) -/

namespace State

variable (s : State) (ret : Word) (h : s.sp.val < 16)

theorem getElem_stack_pushFrame (k : Fin 16) :
    (s.pushFrame ret h).stack[k.val] = if k.val = s.sp.val then ret else s.stack[k.val] := by
  simp only [pushFrame_stack, Vector.getElem_set, eq_comm]

theorem topFrame_pushFrame : (s.pushFrame ret h).topFrame (Nat.succ_pos _) = ret :=
  Vector.getElem_set_self h

theorem keepsBut_pushFrame_setPc (target : Word) :
    keepsBut [.pc, .sp, .stack] s ((s.pushFrame ret h).setPc target) :=
  (((changesOnly.pushFrame s ret h).trans (changesOnly.setPc _ target)).mono (by simp) (List.Subset.refl _)).1

theorem keepsBut_dropFrame_setPc (target : Word) : keepsBut [.pc, .sp] s (s.dropFrame.setPc target) :=
  (((changesOnly.dropFrame s).trans (changesOnly.setPc _ target)).mono (by simp) (List.Subset.refl _)).1

theorem keepsBut_setStack_setPc (stack : Vector Word 16) (target : Word) :
    keepsBut [.pc, .stack] s (setPc { s with stack } target) := fun p hp => by
  cases p <;> simp [Part.same, reg] at hp ⊢

end State

/-- The return right after a call pops what the call pushed, and leaves it in its slot. -/
theorem exec_ret_call (s : State) (h : s.sp.val < 16) (ret target : Word) :
    exec .ret ((s.pushFrame ret h).setPc target) =
      .next (State.setPc { s with stack := (s.pushFrame ret h).stack } ret) := by
  have htop : ((s.pushFrame ret h).setPc target).topFrame (Nat.succ_pos _) = ret := s.topFrame_pushFrame ret h
  rw [exec_ret_of_pos (Nat.succ_pos _), htop]
  rfl

/-- Settles O36: the pop gives back the pushed address and the depth; the slot the push wrote lies above the slots in use. -/
theorem callThenReturnRestoresThePc : Obligations.CallThenReturnRestoresThePc := by
  intro nnn s h
  have hslots := s.getElem_stack_pushFrame (s.pc + 2#16) h
  exact ⟨_, _, exec_call_of_lt nnn h, exec_ret_call s h _ _, rfl, rfl, hslots, s.keepsBut_setStack_setPc _ _, rfl,
    fun k hk => (hslots k).trans (if_neg (Nat.ne_of_lt hk))⟩

/-- Settles O34, on each side of the check. -/
theorem callPushesTheReturnAddress : Obligations.CallPushesTheReturnAddress := fun nnn s =>
  ⟨fun h => ⟨_, exec_call_of_lt nnn h, toNat_zextImm nnn, rfl, s.getElem_stack_pushFrame _ h,
    s.keepsBut_pushFrame_setPc _ h _⟩, exec_call_of_full nnn⟩

/-- Settles O35, on each side of the check. -/
theorem returnPopsIntoThePc : Obligations.ReturnPopsIntoThePc := by
  refine ⟨decodeWord_encode .ret, fun s => ⟨exec_ret_of_empty, fun h => ⟨_, exec_ret_of_pos h, fun k hk => ?_,
    Nat.sub_add_cancel h, s.keepsBut_dropFrame_setPc _⟩⟩⟩
  have htop : s.sp.val - 1 = k.val := by omega
  simp only [State.setPc_pc, State.topFrame, htop]

/-! ### The skips (R103 to R106) -/

theorem State.skipIf_beq (s : State) (a b : Byte) :
    s.skipIf (a == b) = { s with pc := if a = b then s.pc + 4#16 else s.pc + 2#16 } := by
  simp only [skipIf, setPc, beq_iff_eq]

theorem State.skipIf_bne (s : State) (a b : Byte) :
    s.skipIf (a != b) = { s with pc := if a ≠ b then s.pc + 4#16 else s.pc + 2#16 } := by
  simp only [skipIf, setPc, bne_iff_ne]

/-- Settles O37: the words are the encodings, and the skip tests the condition. -/
theorem skipByImmediate : Obligations.SkipByImmediate := by
  intro x kk s
  have hbits := toNat_placeX_zext16 x kk
  rw [Nat.add_assoc, Nat.add_assoc]
  exact ⟨decodeWord_ofNat (.seImm x kk) hbits, decodeWord_ofNat (.sneImm x kk) hbits,
    congrArg _ (s.skipIf_beq _ _), congrArg _ (s.skipIf_bne _ _)⟩

/-- In the families 5 and 9 only the low nibble 0 decodes (R77). -/
theorem decodeWord_ne_ok_of_lowNibble {w : Word} (hop : w.toNat / 4096 = 0x5 ∨ w.toNat / 4096 = 0x9)
    (hn : w.toNat % 16 ≠ 0) (i : Instr) : decodeWord w ≠ .ok i := by
  have herror : decodeWord w = .error (.unrecognised w) := (decodeFailuresAreTheSixClasses w).2 (by tauto)
  rw [herror]
  exact nofun

/-- Settles O38: the words with low nibble 0 are the encodings, the others lie in two classes of failures, and the skip tests the
condition. -/
theorem skipByRegister : Obligations.SkipByRegister := by
  intro x y n s
  have hbits := toNat_placeX_placeY x y
  refine ⟨?_, ?_, fun hn i => ?_, congrArg _ (s.skipIf_beq _ _), congrArg _ (s.skipIf_bne _ _)⟩
  · rw [Nat.add_assoc]
    exact decodeWord_ofNat (.seReg x y) hbits
  · rw [Nat.add_assoc]
    exact decodeWord_ofNat (.sneReg x y) hbits
  · have hn : n.val ≠ 0 := Fin.val_ne_iff.2 hn
    constructor <;>
      exact decodeWord_ne_ok_of_lowNibble (by rw [BitVec.toNat_ofNat]; omega) (by rw [BitVec.toNat_ofNat]; omega) i

end Sys2Proof.Machine

/-! PROOFS. The register and arithmetic family (spec/41_register_alu.md): the two endings its operations share, and the values they
end with. -/

namespace Sys2Proof.Machine

open State (changesOnly)

/-! ### The two endings (R110) -/

theorem State.hasResult_setReg_advance (s : State) (x : Reg) (u : Byte) : s.hasResult x u (s.setReg x u).advance := by
  obtain ⟨hparts, hregs⟩ := (changesOnly.setReg s x u).trans (.setPc _ _)
  exact ⟨s.reg_setReg_self x u, hregs, hparts, rfl⟩

/-- The flag survives exactly where the result, written second, does not take its place. -/
theorem State.hasFlaggedResult_setFlag_setReg_advance (s : State) (x : Reg) (flag result : Byte) :
    s.hasFlaggedResult x flag.toNat result.toNat ((s.setFlag flag).setReg x result).advance := by
  obtain ⟨hparts, hregs⟩ := changesOnly_flagThenResult x flag result s
  refine ⟨congrArg _ (reg_setReg_self _ x result), fun hx => congrArg _ ?_, hregs, hparts, rfl⟩
  exact (reg_setReg_of_ne _ result hx.symm).trans (s.reg_setReg_self flagReg flag)

theorem resultOnly_hasResult (x : Reg) (u : Byte) (s : State) : ∃ t, resultOnly x u s = .next t ∧ s.hasResult x u t :=
  ⟨_, rfl, s.hasResult_setReg_advance x u⟩

theorem flagThenResult_hasFlaggedResult (x : Reg) {flag result : Byte} {f r : Nat} (s : State) (hf : flag.toNat = f)
    (hr : result.toNat = r) : ∃ t, flagThenResult x flag result s = .next t ∧ s.hasFlaggedResult x f r t := by
  subst hf hr
  exact ⟨_, rfl, s.hasFlaggedResult_setFlag_setReg_advance x flag result⟩

/-! ### The flags as numbers (R22) -/

theorem toNat_flagOf (c : Bool) : (flagOf c).toNat = c.toNat := by cases c <;> rfl

theorem toNat_carryFlag (a b : Byte) : (carryFlag a b).toNat = if 255 < a.toNat + b.toNat then 1 else 0 :=
  (toNat_flagOf _).trans (Bool.cond_decide _ _ _)

theorem toNat_noBorrowFlag (a b : Byte) : (noBorrowFlag a b).toNat = if b.toNat ≤ a.toNat then 1 else 0 :=
  (toNat_flagOf _).trans (Bool.cond_decide _ _ _)

theorem toNat_shrFlag (a : Byte) : (shrFlag a).toNat = a.toNat % 2 := by
  rw [shrFlag, toNat_flagOf, BitVec.getLsbD, Nat.toNat_testBit, Nat.pow_zero, Nat.div_one]

theorem toNat_shlFlag (a : Byte) : (shlFlag a).toNat = a.toNat / 128 := by
  rw [shlFlag, toNat_flagOf, BitVec.getLsbD, Nat.toNat_testBit]
  omega

/-! ### The results as numbers -/

/-- The difference modulo 256 in the order the rules write it, minuend first (R118, R121). -/
theorem toNat_sub_byte (a b : Byte) : (a - b).toNat = (a.toNat + 256 - b.toNat) % 256 := by
  rw [BitVec.toNat_sub]
  omega

/-- Settles O44: shifting is halving and doubling, and the bit shifted out is the remainder of the one, the carry of the other. -/
theorem shiftsMoveOneBitOut : Obligations.ShiftsMoveOneBitOut := fun x _ s =>
  ⟨flagThenResult_hasFlaggedResult x s (toNat_shrFlag _) (by rw [BitVec.toNat_ushiftRight, Nat.shiftRight_one]),
   flagThenResult_hasFlaggedResult x s (toNat_shlFlag _) (by rw [BitVec.toNat_shiftLeft, Nat.shiftLeft_eq, Nat.pow_one])⟩

/-- Settles O39: each of the three ends by its result alone. -/
theorem loadsAndImmediateAdd : Obligations.LoadsAndImmediateAdd := by
  intro x y kk s
  have hsum : BitVec.ofNat 8 (((s.reg x).toNat + kk.toNat) % 256) = s.reg x + kk :=
    BitVec.eq_of_toNat_eq (by simp)
  rw [hsum]
  exact ⟨resultOnly_hasResult x _ s, resultOnly_hasResult x _ s, resultOnly_hasResult x _ s⟩

/-- Settles O40: each of the three ends by its result alone, and a bit of a bitwise result is the connective of the two bits. -/
theorem logicIsBitwise : Obligations.LogicIsBitwise := fun x _ s =>
  ⟨⟨_, _, rfl, s.hasResult_setReg_advance x _, fun _ _ => BitVec.getLsbD_or⟩,
   ⟨_, _, rfl, s.hasResult_setReg_advance x _, fun _ _ => BitVec.getLsbD_and⟩,
   ⟨_, _, rfl, s.hasResult_setReg_advance x _, fun _ _ => BitVec.getLsbD_xor⟩⟩

/-- Settles O41: the word is the encoding, and the sum of the bytes is that of the numbers modulo 256. -/
theorem addWithCarryOut : Obligations.AddWithCarryOut := by
  intro x y s
  rw [Nat.add_assoc]
  exact ⟨decodeWord_ofNat (.addReg x y) (toNat_placeX_placeY x y),
    flagThenResult_hasFlaggedResult x s (toNat_carryFlag _ _) (BitVec.toNat_add _ _)⟩

/-- Settles O42: the word is the encoding, and the flag compares subtrahend and minuend as numbers. -/
theorem subtractWithNoBorrow : Obligations.SubtractWithNoBorrow := by
  intro x y s
  rw [Nat.add_assoc]
  exact ⟨decodeWord_ofNat (.sub x y) (toNat_placeX_placeY x y),
    flagThenResult_hasFlaggedResult x s (toNat_noBorrowFlag _ _) (toNat_sub_byte _ _)⟩

/-- Settles O43: the difference of O42 with the operands exchanged. -/
theorem subtractReversedWithNoBorrow : Obligations.SubtractReversedWithNoBorrow := fun x _ s =>
  flagThenResult_hasFlaggedResult x s (toNat_noBorrowFlag _ _) (toNat_sub_byte _ _)

end Sys2Proof.Machine

/-! PROOFS. The address and memory family (spec/42_memory_address.md): the operations on `I`, the two block moves and the store of
the decimal digits. -/

namespace Sys2Proof.Machine

open State (changesOnly)

/-! ### The address register (R130, R131, R135) -/

theorem add_zext16_eq_ofNat (a : Word) (u : Byte) : a + zext16 u = BitVec.ofNat 16 ((a.toNat + u.toNat) % 65536) := by
  refine BitVec.eq_of_toNat_eq ?_
  simp [zext16_eq_ofNat]

theorem val_lowNibble (u : Byte) : (lowNibble u).val = u.toNat % 16 := by
  simp [lowNibble]

theorem glyphAddress_lowNibble (u : Byte) : glyphAddress (lowNibble u) = BitVec.ofNat 16 (5 * (u.toNat % 16)) := by
  rw [glyphAddress, val_lowNibble, Config.fontBase, glyphStride, Nat.zero_add]

/-- Settles O46: each of the three is one write of `I`, of the value the rule names. -/
theorem addressRegisterResults : Obligations.AddressRegisterResults := by
  intro nnn x s
  rw [← zextImm_eq_ofNat, ← add_zext16_eq_ofNat, ← glyphAddress_lowNibble]
  exact ⟨rfl, rfl, rfl⟩

/-! ### A store at `I`, on each side of its check (R53, R132, R134) -/

/-- A store that fits puts its bytes at `I` and upward, and changes nothing else but `PC`. -/
theorem storeAtI_of_fits {s : State} (hm : s.mem.wf = true) {bytes : List Byte}
    (hb : s.dataAddr + bytes.length ≤ Config.memSize) :
    ∃ t, storeAtI bytes s = .next t ∧ (∀ k, k < bytes.length → t.mem.byteAt (s.dataAddr + k) = bytes.getD k 0) ∧
      State.keepsMemBut s.dataAddr bytes.length s t ∧ State.keepsBut [.mem, .pc] s t ∧ t.pc = s.pc + 2#16 := by
  obtain ⟨-, h⟩ | ⟨hout, -⟩ := storeAtI_cases bytes s
  · have hread := Memory.byteAt_store hm hb
    refine ⟨_, h, fun k hk => ?_, fun a ha => ?_, ((changesOnly.setMem s _).trans (.setPc _ _)).1, rfl⟩
    · exact (hread _).trans (by rw [if_pos (by omega), Nat.add_sub_cancel_left])
    · exact (hread a).trans (if_neg (by omega))
  · exact absurd (inBounds_iff.2 (.inr hb)) (Bool.eq_false_iff.1 hout)

/-- A store that does not fit records the fault and changes nothing else. -/
theorem storeAtI_of_outside {s : State} {bytes : List Byte} (hne : bytes.length ≠ 0)
    (hb : Config.memSize < s.dataAddr + bytes.length) : storeAtI bytes s = takeFault (boundsFault s.dataAddr) s := by
  obtain ⟨hin, -⟩ | ⟨-, h⟩ := storeAtI_cases bytes s
  · have := inBounds_iff.1 hin
    omega
  · exact h

/-- Settles O47: a store at `I` of the block `V[0]`..`V[x]`. -/
theorem storeBlockWritesTheRegisters : Obligations.StoreBlockWritesTheRegisters := by
  intro x s hm hx
  have hlen := s.length_regBlock x
  have hfits : s.dataAddr + (s.regBlock x).length ≤ Config.memSize := by
    rw [hlen, State.dataAddr, Config.memSize]
    omega
  obtain ⟨t, h, hbytes, hmem, hparts, hpc⟩ := storeAtI_of_fits hm hfits
  rw [hlen] at hbytes hmem
  refine ⟨t, h, fun k hk => ?_, fun a ha => ha ▸ hmem, hparts, hpc⟩
  exact (hbytes k.val (Nat.lt_succ_of_le hk)).trans (s.getD_regBlock x hk)

/-- Settles O49: the word is the encoding, and the operation is a store at `I` of the three digits, each in range as a quotient or
remainder of a byte. -/
theorem bcdStoresTheThreeDigits : Obligations.BcdStoresTheThreeDigits := by
  intro x s
  refine ⟨decodeWord_ofNat (.ldB x) (toNat_placeX x), fun hm hi => ?_, fun hi => ?_⟩
  · have hfits : s.dataAddr + (bcdDigits (s.reg x)).length ≤ Config.memSize := by
      rw [length_bcdDigits, State.dataAddr, Config.memSize]
      omega
    obtain ⟨t, h, hbytes, hmem, hparts, hpc⟩ := storeAtI_of_fits hm hfits
    have hdigit {k : Nat} (hk : k < 3) := (congrArg BitVec.toNat (hbytes k hk)).trans (toNat_getD_bcdDigits (s.reg x) hk)
    have hhundreds : (t.mem.byteAt s.i.toNat).toNat = (s.reg x).toNat / 100 := hdigit (k := 0) (by decide)
    have htens : (t.mem.byteAt (s.i.toNat + 1)).toNat = (s.reg x).toNat / 10 % 10 := hdigit (k := 1) (by decide)
    have hones : (t.mem.byteAt (s.i.toNat + 2)).toNat = (s.reg x).toNat % 10 := hdigit (k := 2) (by decide)
    have hbyte := (s.reg x).isLt
    refine ⟨t, h, hhundreds, htens, hones, by omega, fun k hk => ?_, fun a ha => ha ▸ hmem, hparts, hpc⟩
    match k, hk with
    | 0, _ => rw [Nat.add_zero]; omega
    | 1, _ | 2, _ => omega
  · have hout : Config.memSize < s.dataAddr + (bcdDigits (s.reg x)).length := by
      rw [length_bcdDigits, State.dataAddr, Config.memSize]
      omega
    exact ⟨_, storeAtI_of_outside nofun hout⟩

/-! ### The block load (R133) -/

theorem execLdVxMem_of_fits {x : Reg} {s : State} (h : s.dataAddr + (x.val + 1) ≤ Config.memSize) :
    execLdVxMem x s = .next (s.setRegsFrom 0 (s.mem.bytes s.dataAddr (x.val + 1))).advance := by
  rw [execLdVxMem, memRead_eq_ok.2 ⟨.inr h, rfl⟩]

theorem State.pc_setRegsFrom (s : State) (k : Nat) (bytes : List Byte) : (s.setRegsFrom k bytes).pc = s.pc := by
  rw [setRegsFrom_eq]

/-- A block read into the registers from `V[0]` upward: the bytes read up to `V[x]`, the old values above. -/
theorem State.reg_setRegsFrom_bytes (s : State) (addr : Nat) (x k : Reg) :
    (s.setRegsFrom 0 (s.mem.bytes addr (x.val + 1))).reg k =
      if k.val ≤ x.val then s.mem.byteAt (addr + k.val) else s.reg k := by
  rw [reg_setRegsFrom, Memory.length_bytes]
  split_ifs with hblock hk hk
  · exact Memory.getD_bytes _ _ (Nat.lt_succ_of_le hk)
  · omega
  · omega
  · rfl

/-- Settles O48: the read passes its check, and the registers take the bytes read. -/
theorem loadBlockReadsTheRegisters : Obligations.LoadBlockReadsTheRegisters := by
  intro x s hx
  have hfits : s.dataAddr + (x.val + 1) ≤ Config.memSize := by
    rw [State.dataAddr, Config.memSize]
    omega
  have hregs := s.reg_setRegsFrom_bytes s.dataAddr x
  exact ⟨_, execLdVxMem_of_fits hfits, fun k hk => (hregs k).trans (if_pos hk),
    fun k hk => (hregs k).trans (if_neg (Nat.not_le.2 hk)),
    ((changesOnly.setRegsFrom s x (Memory.length_bytes _ _ _)).trans (.setPc _ _)).1,
    congrArg (· + 2#16) (s.pc_setRegsFrom 0 _)⟩

end Sys2Proof.Machine

/-! PROOFS. The random-number family (spec/43_random.md): the one masked draw, and that no other operation draws. -/

namespace Sys2Proof.Machine

/-- `RND` as one next state: the draw is counted, its masked byte written, `PC` moved on (R140). -/
theorem exec_rnd (x : Reg) (kk : Byte) (s : State) :
    exec (.rnd x kk) s = .next (s.countDraw.setReg x (Config.randomByte s.draws &&& kk)).advance := rfl

/-- In the table of R21 and R38 the count of draws stands with `RND` alone. -/
theorem draws_mem_changes_iff {i : Instr} : Part.draws ∈ i.changes ↔ ∃ x kk, i = .rnd x kk := by
  cases i <;> simp [Instr.changes]

/-- Settles O45: the word is the encoding, the register reads back the masked draw, and the frame of O24 gives the rest, for `RND` and for
the operations that do not draw. -/
theorem randomByteIsMasked : Obligations.RandomByteIsMasked := by
  refine ⟨fun x kk s => ?_, fun i s t h hrnd => ?_⟩
  · obtain ⟨hparts, hregs⟩ := operationsChangeOnlyTheirParts _ _ _ (exec_rnd x kk s)
    have hword := decodeWord_ofNat (.rnd x kk) (toNat_placeX_zext16 x kk)
    rw [← Nat.add_assoc] at hword
    refine ⟨hword, _, _, exec_rnd x kk s, rfl, rfl, ?_⟩
    rw [State.reg_advance, State.reg_setReg_self]
    exact ⟨fun _ _ => BitVec.getLsbD_and, (BitVec.toNat_and _ _).trans_le Nat.and_le_right,
      fun hkk => (congrArg (_ &&& ·) hkk).trans BitVec.and_zero,
      fun hkk => (congrArg (_ &&& ·) hkk).trans BitVec.and_allOnes, hregs, hparts, rfl⟩
  · have hdraws : Part.draws ∉ i.changes := fun hm =>
      have ⟨x, kk, hi⟩ := draws_mem_changes_iff.1 hm
      hrnd x kk hi
    exact (operationsChangeOnlyTheirParts i s t h).1 .draws hdraws

end Sys2Proof.Machine

/-! PROOFS. The display family (spec/44_display.md): what a drawing inverts and when it notes a collision, from one pixel over a row to
the whole sprite, and the three statements about `DRW` and `CLS`. -/

namespace Sys2Proof.Machine

open State (changesOnly)

/-! ### Drawings and the pixels they cover -/

/-- A drawing that covers the pixels of `C`: those and no others are inverted, and a pixel of `C` that was set is noted as a collision,
after those noted before (R147). -/
structure Inverts (C : Fin 32 → Fin 64 → Prop) (a b : FrameBuffer × Bool) : Prop where
  covered : ∀ row col, C row col → b.1.pixel row col = !(a.1.pixel row col)
  uncovered : ∀ row col, ¬ C row col → b.1.pixel row col = a.1.pixel row col
  collision : b.2 = true ↔ a.2 = true ∨ ∃ row col, C row col ∧ a.1.pixel row col = true

namespace Inverts

variable {C D : Fin 32 → Fin 64 → Prop} {a b c : FrameBuffer × Bool}

theorem congr (h : Inverts C a b) (hCD : ∀ row col, C row col ↔ D row col) : Inverts D a b := by
  obtain rfl : C = D := funext₂ fun row col => propext (hCD row col)
  exact h

theorem of_no_pixel (hC : ∀ row col, ¬ C row col) : Inverts C a a where
  covered row col h := absurd h (hC row col)
  uncovered _ _ _ := rfl
  collision := by simp [hC]

/-- Drawings that share no pixel add up: the second finds every pixel it covers as the first found it. -/
theorem trans (h : Inverts C a b) (h' : Inverts D b c) (hdisj : ∀ row col, C row col → ¬ D row col) :
    Inverts (fun row col => C row col ∨ D row col) a c where
  covered row col hCD := by
    obtain hC | hD := hCD
    · rw [h'.uncovered row col (hdisj row col hC), h.covered row col hC]
    · rw [h'.covered row col hD, h.uncovered row col fun hC => hdisj row col hC hD]
  uncovered row col hCD := by
    obtain ⟨hC, hD⟩ := not_or.1 hCD
    rw [h'.uncovered row col hD, h.uncovered row col hC]
  collision := by
    have hsame (row col) : (D row col ∧ b.1.pixel row col = true) ↔ (D row col ∧ a.1.pixel row col = true) :=
      and_congr_right fun hD => by rw [h.uncovered row col fun hC => hdisj row col hC hD]
    simp only [h'.collision, h.collision, hsame, or_and_right, exists_or, or_assoc]

end Inverts

/-! ### The two loops (R147) -/

theorem inverts_blitPixel (bit : Bool) (row : Fin 32) (col : Fin 64) (acc : FrameBuffer × Bool) :
    Inverts (fun row' col' => row' = row ∧ col' = col ∧ bit = true) acc (blitPixel bit row col acc) where
  covered row' col' h := by
    obtain ⟨rfl, rfl, rfl⟩ := h
    simp [pixel_blitPixel]
  uncovered row' col' h := by
    have hbit : (bit && decide (row' = row ∧ col' = col)) = false := by
      rw [Bool.and_eq_false_imp]
      exact fun hb => decide_eq_false fun ⟨hr, hc⟩ => h ⟨hr, hc, hb⟩
    rw [pixel_blitPixel, hbit, Bool.xor_false]
  collision := by simp [collision_blitPixel]

/-- Fewer than 64 columns wrap to different ones. -/
theorem wrapCol_inj (col0 : Fin 64) {c c' : Nat} (hc : c < 64) (hc' : c' < 64) (h : wrapCol col0 c = wrapCol col0 c') :
    c = c' := by
  have := Fin.val_eq_of_eq h
  simp only [wrapCol] at this
  omega

/-- Fewer than 32 rows wrap to different ones. -/
theorem wrapRow_inj (row0 : Fin 32) {r r' : Nat} (hr : r < r' + 32) (hr' : r' < r + 32)
    (h : wrapRow row0 r = wrapRow row0 r') : r = r' := by
  have := Fin.val_eq_of_eq h
  simp only [wrapRow] at this
  omega

/-- The inner loop over any columns that differ. -/
theorem inverts_foldl_blitPixel (col0 : Fin 64) (row : Fin 32) (u : Byte) {cs : List Nat} (hcs : cs.Nodup)
    (hlt : ∀ c ∈ cs, c < 64) (acc : FrameBuffer × Bool) :
    Inverts (fun row' col' => row' = row ∧ ∃ c ∈ cs, col' = wrapCol col0 c ∧ spriteBit u c = true) acc
      (cs.foldl (fun acc c => blitPixel (spriteBit u c) row (wrapCol col0 c) acc) acc) := by
  induction cs generalizing acc with
  | nil => exact .of_no_pixel (by simp)
  | cons c cs ih =>
    obtain ⟨hc, hcs⟩ := List.nodup_cons.1 hcs
    obtain ⟨hclt, hlt⟩ := List.forall_mem_cons.1 hlt
    refine ((inverts_blitPixel _ row (wrapCol col0 c) acc).trans (ih hcs hlt _) ?_).congr fun row' col' => ?_
    · rintro _ _ ⟨-, rfl, -⟩ ⟨-, c', hc', heq, -⟩
      exact hc (wrapCol_inj col0 hclt (hlt c' hc') heq ▸ hc')
    · rw [List.exists_mem_cons_iff, and_or_left]

theorem inverts_blitRow (col0 : Fin 64) (row : Fin 32) (u : Byte) (acc : FrameBuffer × Bool) :
    Inverts (fun row' col' => row' = row ∧ ∃ c < 8, col' = wrapCol col0 c ∧ spriteBit u c = true) acc
      (blitRow col0 row u acc) :=
  (inverts_foldl_blitPixel col0 row u (cs := List.range 8) List.nodup_range
    (fun _ hc => (List.mem_range.1 hc).trans (by decide)) acc).congr fun _ _ => by simp only [List.mem_range]

/-- A sprite with its first row `r` rows below the start has a 1 bit on the pixel. -/
def rowsCover (col0 : Fin 64) (row0 : Fin 32) (r : Nat) (rows : List Byte) (row : Fin 32) (col : Fin 64) : Prop :=
  ∃ k < rows.length, row = wrapRow row0 (r + k) ∧ ∃ c < 8, col = wrapCol col0 c ∧ spriteBit (rows.getD k 0) c = true

theorem rowsCover_cons {col0 : Fin 64} {row0 : Fin 32} {r : Nat} {u : Byte} {rest : List Byte} {row : Fin 32}
    {col : Fin 64} :
    rowsCover col0 row0 r (u :: rest) row col ↔
      (row = wrapRow row0 r ∧ ∃ c < 8, col = wrapCol col0 c ∧ spriteBit u c = true) ∨
        rowsCover col0 row0 (r + 1) rest row col := by
  have hk (k : Nat) : r + 1 + k = r + (k + 1) := by omega
  simp only [rowsCover, List.length_cons, Nat.exists_lt_succ_left, List.getD_cons_zero, List.getD_cons_succ, Nat.add_zero, hk]

/-- The outer loop: at most 32 rows lie on different rows of the frame, so no pixel is touched twice. -/
theorem inverts_blitRows (col0 : Fin 64) (row0 : Fin 32) (r : Nat) {rows : List Byte} (hlen : rows.length ≤ 32)
    (acc : FrameBuffer × Bool) : Inverts (rowsCover col0 row0 r rows) acc (blitRows col0 row0 r rows acc) := by
  induction rows generalizing r acc with
  | nil => exact .of_no_pixel fun _ _ ⟨_, hk, _⟩ => Nat.not_lt_zero _ hk
  | cons u rest ih =>
    rw [List.length_cons] at hlen
    refine ((inverts_blitRow col0 (wrapRow row0 r) u acc).trans (ih (r + 1) (by omega) _) ?_).congr
      fun _ _ => rowsCover_cons.symm
    rintro _ _ ⟨rfl, -⟩ ⟨k, hk, heq, -⟩
    have := wrapRow_inj row0 (by omega) (by omega) heq
    omega

/-! ### `DRW` (R145) -/

/-- The rows read at `I`, drawn from the start that the coordinates name, cover the pixels of the sprite. -/
theorem rowsCover_bytes_iff (x y : Reg) (n : RowCount) (s : State) (row : Fin 32) (col : Fin 64) :
    rowsCover (startCol (s.reg x)) (startRow (s.reg y)) 0 (s.mem.bytes s.dataAddr n.val) row col ↔
      s.spriteCovers x y n row col := by
  have hrow (k : Nat) : row = wrapRow (startRow (s.reg y)) (0 + k) ↔ row.val = ((s.reg y).toNat + k) % 32 := by
    simp [Fin.ext_iff, wrapRow, startRow]
  have hcol (c : Nat) : col = wrapCol (startCol (s.reg x)) c ↔ col.val = ((s.reg x).toNat + c) % 64 := by
    simp [Fin.ext_iff, wrapCol, startCol]
  simp only [rowsCover, State.spriteCovers, Memory.length_bytes, hrow, hcol, spriteBit]
  constructor
  · rintro ⟨k, hk, hr, c, hc, hcc, hbit⟩
    exact ⟨k, c, hk, hc, hr, hcc, Memory.getD_bytes s.mem _ hk ▸ hbit⟩
  · rintro ⟨k, c, hk, hc, hr, hcc, hbit⟩
    exact ⟨k, hk, hr, c, hc, hcc, (Memory.getD_bytes s.mem _ hk).symm ▸ hbit⟩

/-- `DRW` with its sprite in memory, as one drawing and the flag of its collision. -/
theorem exec_drw_of_fits (x y : Reg) {n : RowCount} {s : State} (h : n.val = 0 ∨ s.i.toNat + n.val - 1 ≤ 4095) :
    ∃ drawn, exec (.drw x y n) s = .next ((s.setFb drawn.1).setFlag (collisionFlag drawn.2)).advance ∧
      Inverts (s.spriteCovers x y n) (s.fb, false) drawn := by
  have hfits : n.val = 0 ∨ s.dataAddr + n.val ≤ Config.memSize := by
    rw [State.dataAddr, Config.memSize]
    omega
  have hlen : (s.mem.bytes s.dataAddr n.val).length ≤ 32 := by
    rw [Memory.length_bytes]
    omega
  refine ⟨blit (startCol (s.reg x)) (startRow (s.reg y)) (s.mem.bytes s.dataAddr n.val) s.fb, ?_, ?_⟩
  · rw [exec, execDrw, memRead_eq_ok.2 ⟨hfits, rfl⟩]
  · exact (inverts_blitRows _ _ 0 hlen _).congr (rowsCover_bytes_iff x y n s)

/-- Drawing a frame and its flag touches the frame, `V[15]` and `PC`. -/
theorem changesOnly_setFb_setFlag_advance (f : FrameBuffer) (flag : Byte) (s : State) :
    changesOnly [.fb, .regs, .pc] [15] s ((s.setFb f).setFlag flag).advance :=
  (((changesOnly.setFb s f).trans (.setReg _ flagReg flag)).trans (.setPc _ _)).mono (by simp) (by simp [flagReg])

/-- Settles O50: the drawing covers the pixels of the sprite, and starts with no collision noted. -/
theorem drawInvertsThePixelsUnderTheSprite : Obligations.DrawInvertsThePixelsUnderTheSprite := by
  intro x y n s hfits
  obtain ⟨drawn, hexec, hdrawn⟩ := exec_drw_of_fits x y hfits
  obtain ⟨hparts, hregs⟩ := changesOnly_setFb_setFlag_advance drawn.1 (collisionFlag drawn.2) s
  have hflag : (((s.setFb drawn.1).setFlag (collisionFlag drawn.2)).advance).reg 15 = collisionFlag drawn.2 :=
    State.reg_setReg_self _ flagReg _
  have hcollision : drawn.2 = true ↔ ∃ row col, s.spriteCovers x y n row col ∧ s.fb.pixel row col = true := by
    simpa using hdrawn.collision
  refine ⟨_, hexec, hdrawn.covered, hdrawn.uncovered, fun hc => ?_, fun hc => ?_, hregs, hparts, rfl⟩
  · rw [hflag, hcollision.2 hc]; rfl
  · rw [hflag, Bool.eq_false_iff.2 fun h => hc (hcollision.1 h)]; rfl

/-! ### Drawing twice -/

/-- The pixels under the sprite depend on the two coordinates, `I` and memory alone. -/
theorem spriteCovers_congr {x y : Reg} {s t : State} (hx : t.reg x = s.reg x) (hy : t.reg y = s.reg y) (hi : t.i = s.i)
    (hmem : ∀ a, t.mem.byteAt a = s.mem.byteAt a) (n : RowCount) : t.spriteCovers x y n = s.spriteCovers x y n := by
  unfold State.spriteCovers
  simp only [hx, hy, hi, hmem]

/-- Settles O51: the first draw leaves what the sprite covers as it was, so the second inverts the same pixels back, and the pixels it
finds set there are those that were unset before the first. -/
theorem drawingTwiceRestoresTheFrame : Obligations.DrawingTwiceRestoresTheFrame := by
  intro x y n s hx hy hfits
  obtain ⟨t, ht, hin, hout, -, -, hregs, hparts, -⟩ := drawInvertsThePixelsUnderTheSprite x y n s hfits
  have hi : t.i = s.i := hparts .i (by decide)
  obtain ⟨u, hu, hin', hout', hset, hunset, -⟩ := drawInvertsThePixelsUnderTheSprite x y n t (hi ▸ hfits)
  have hsprite : t.spriteCovers x y n = s.spriteCovers x y n :=
    spriteCovers_congr (hregs x (by simpa using hx)) (hregs y (by simpa using hy)) hi (hparts .mem (by decide)) n
  rw [hsprite] at hin' hout' hset hunset
  refine ⟨t, u, ht, hu, fun row col => ?_, ?_⟩
  · by_cases hc : s.spriteCovers x y n row col
    · rw [hin' row col hc, hin row col hc, Bool.not_not]
    · rw [hout' row col hc, hout row col hc]
  · have hfound (row col) : (s.spriteCovers x y n row col ∧ t.fb.pixel row col = true) ↔
        (s.spriteCovers x y n row col ∧ s.fb.pixel row col = false) :=
      and_congr_right fun hc => by rw [hin row col hc, Bool.not_eq_true']
    simp only [hfound] at hset hunset
    refine ⟨fun hone => by_contra fun hnone => ?_, hset⟩
    rw [hunset hnone] at hone
    exact absurd hone (by decide)

/-! ### `CLS` (R146) -/

/-- Settles O52: the frame of O24, and every pixel of the clear frame is unset. -/
theorem clearUnsetsEveryPixel : Obligations.ClearUnsetsEveryPixel := fun s =>
  ⟨_, rfl, FrameBuffer.pixel_clear, (operationsChangeOnlyTheirParts .cls s _ rfl).1, rfl⟩

end Sys2Proof.Machine

/-! PROOFS. The keypad family (spec/45_keypad.md): the tests of a key, the key events, and a key wait from `LD Vx,K` to the press that
ends it. -/

namespace Sys2Proof.Machine

open State (changesOnly)

/-! ### The instructions (R150, R151, R152) -/

theorem State.skipIf_not (s : State) (c : Bool) :
    s.skipIf (!c) = { s with pc := if c = false then s.pc + 4#16 else s.pc + 2#16 } := by
  simp only [skipIf, setPc, Bool.not_eq_true']

/-- `KEY` at the low nibble of `V[x]`, by the number that nibble is. -/
theorem State.keyOf_eq {s : State} {x : Reg} {k : Key} (h : (s.reg x).toNat % 16 = k.val) : s.keyOf x = s.key[k.val] := by
  have hk : lowNibble (s.reg x) = k := Fin.ext ((val_lowNibble _).trans h)
  subst hk
  rfl

/-- Settles O53: both skips test that key, `SKNP` its negation. -/
theorem keySkipsTestTheKeyOfTheLowNibble : Obligations.KeySkipsTestTheKeyOfTheLowNibble := by
  intro x k s hk
  rw [← State.keyOf_eq hk]
  exact ⟨rfl, congrArg _ (s.skipIf_not _)⟩

/-- Settles O54: the latch and `PC` are the two updates of the operation. -/
theorem waitForKeySetsTheLatch : Obligations.WaitForKeySetsTheLatch := fun _ _ => rfl

/-! ### The key events (R153, R154) -/

theorem step_of_nextEvent {s : State} {e : Event} (h : s.nextEvent = e) : step s = handleEvent e s.consumeEvent := by
  rw [step, h]

theorem State.changesOnly.consumeEvent (s : State) : changesOnly [.hostSchedule] [] s s.consumeEvent :=
  of_keepsBut (by simp) fun p hp => by cases p <;> simp [Part.same] at hp ⊢

theorem State.changesOnly.setKey (s : State) (k : Key) (held : Bool) : changesOnly [.key] [] s (s.setKey k held) :=
  of_keepsBut (by simp) fun p hp => by cases p <;> simp [Part.same] at hp ⊢

/-- The one register a press can write is the one that waits. -/
theorem State.changesOnly.keyPress (s : State) (k : Key) :
    changesOnly [.key, .wait, .regs] s.wait.toList s (s.keyPress k) := by
  obtain ⟨hw, e⟩ | ⟨r, hw, e⟩ := s.keyPress_cases k <;> rw [e, hw]
  · exact (setKey s k true).mono (by simp) (by simp)
  · exact (((setKey s k true).trans (.setReg _ r _)).trans (.setWait _ none)).mono (by simp) (by simp)

theorem State.key_keyPress (s : State) (k q : Key) :
    (s.keyPress k).key[q.val] = if q = k then true else s.key[q.val] := by
  obtain ⟨-, e⟩ | ⟨r, -, e⟩ := s.keyPress_cases k <;> rw [e] <;> exact s.key_setKey k q true

theorem State.keyPress_wait (s : State) (k : Key) : (s.keyPress k).wait = none := by
  obtain ⟨hw, e⟩ | ⟨r, -, e⟩ := s.keyPress_cases k <;> rw [e]
  · exact hw
  · rfl

theorem State.reg_keyPress_of_wait {s : State} {r : Reg} (h : s.wait = some r) (k : Key) :
    (s.keyPress k).reg r = zext8 k := by
  obtain ⟨hw, -⟩ | ⟨q, hq, e⟩ := s.keyPress_cases k
  · rw [h] at hw; cases hw
  · obtain rfl : r = q := Option.some.inj (h.symm.trans hq)
    rw [e, reg_setWait, reg_setReg_self]

theorem toNat_zext8 (k : Fin 16) : (zext8 k).toNat = k.val := by
  simp only [zext8, BitVec.toNat_ofNat]
  omega

/-- Settles O17: the event comes off the schedule, and then the press holds the key, ends the wait and fills the register that
waited. -/
theorem keyPressHoldsTheKeyAndEndsTheWait : Obligations.KeyPressHoldsTheKeyAndEndsTheWait := by
  intro s k h
  obtain ⟨hparts, hregs⟩ := ((changesOnly.consumeEvent s).trans (.keyPress _ k)).mono
    (parts' := [.key, .wait, .regs, .hostSchedule]) (by simp) (List.Subset.refl _)
  refine ⟨_, step_of_nextEvent h, State.key_keyPress _ k, State.keyPress_wait _ k, fun r hr => ⟨?_, ?_⟩, fun hw => ?_,
    hparts, ?_⟩
  · exact (congrArg _ (State.reg_keyPress_of_wait (s := s.consumeEvent) hr k)).trans (toNat_zext8 k)
  · simpa [hr] using hregs
  · simpa [hw] using hregs
  · exact (changesOnly.keyPress s.consumeEvent k).1 .hostSchedule (by decide)

/-- Settles O18: a release is one write of `KEY`. -/
theorem keyReleaseEndsNoWait : Obligations.KeyReleaseEndsNoWait := fun s k h =>
  ⟨_, step_of_nextEvent h, fun j => s.consumeEvent.key_setKey k j false,
    (((changesOnly.consumeEvent s).trans (.setKey _ k false)).mono (regs' := []) (by simp) (by simp)).1, rfl⟩

/-! ### A key wait (R155, R183) -/

/-- A `Step` of an unfaulted core that waits for a key ends at part 3 of R161. -/
theorem step_of_waiting {s : State} {r : Reg} (hevent : s.nextEvent = .step) (hfault : s.fault = none)
    (hwait : s.wait = some r) : step s = .next s.consumeEvent.tickTimers := by
  rw [step_of_nextEvent hevent]
  simp [handleEvent, stepEvent, hfault, hwait]

/-- The state after `n` steps of a core that waits for a key: the timers are `n` lower, down to 0, and `n` events are off the
schedule. -/
def State.waitSteps (s : State) (n : Nat) : State :=
  { s with
    dt := BitVec.ofNat 8 (s.dt.toNat - n)
    st := BitVec.ofNat 8 (s.st.toNat - n)
    hostSchedule := s.hostSchedule.drop n }

theorem State.waitSteps_zero (s : State) : s.waitSteps 0 = s := by
  simp [waitSteps]

theorem ofNat_toNat_tick_sub (t : Byte) (n : Nat) :
    BitVec.ofNat 8 ((tick t).toNat - n) = BitVec.ofNat 8 (t.toNat - (n + 1)) := by
  rw [toNat_tick, Nat.sub_sub, Nat.add_comm 1 n]

theorem State.waitSteps_succ (s : State) (n : Nat) : s.consumeEvent.tickTimers.waitSteps n = s.waitSteps (n + 1) := by
  simp [waitSteps, ofNat_toNat_tick_sub, consumeEvent, tickTimers]

theorem State.changesOnly.waitSteps (s : State) (n : Nat) : changesOnly [.dt, .st, .hostSchedule] [] s (s.waitSteps n) :=
  of_keepsBut (by simp) fun p hp => by
    cases p with
    | dt | st | hostSchedule => simp at hp
    | regs | mem => exact fun _ => rfl
    | fb => exact fun _ _ => rfl
    | i | pc | stack | sp | key | wait | fault | draws => rfl

theorem run_succ_of_step {M : Host.Core} {s t : M.State} (h : M.step s = .next t) (n : Nat) :
    M.run (n + 1) s = M.run n t := by
  simp only [Host.Core.run, h]

/-- A run goes on from where its first `n` steps end. -/
theorem run_add_of_run {M : Host.Core} {n : Nat} {s t : M.State} (h : M.run n s = .next t) (m : Nat) :
    M.run (n + m) s = M.run m t := by
  induction n generalizing s with
  | zero => cases h; rw [Nat.zero_add]
  | succ n ih =>
    rw [Nat.add_right_comm]
    cases hs : M.step s with
    | next u =>
      rw [run_succ_of_step hs] at h ⊢
      exact ih h
    | fault r => simp only [Host.Core.run, hs] at h; cases h
    | refused r => simp only [Host.Core.run, hs] at h; cases h

/-- However long it lasts, a wait in which only `Step` events come counts the timers down and does nothing else. -/
theorem run_of_waiting (n : Nat) {s : State} {r : Reg} (hfault : s.fault = none) (hwait : s.wait = some r)
    (hsteps : ∀ e ∈ s.hostSchedule.take n, e = .step) : core.run n s = .next (s.waitSteps n) := by
  induction n generalizing s with
  | zero => rw [State.waitSteps_zero]; rfl
  | succ n ih =>
    have hevents : s.nextEvent = .step ∧ ∀ e ∈ s.hostSchedule.tail.take n, e = .step := by
      cases hs : s.hostSchedule with
      | nil => exact ⟨State.nextEvent_of_nil hs, by simp⟩
      | cons e rest =>
        rw [hs, List.take_succ_cons, List.forall_mem_cons] at hsteps
        exact ⟨(State.nextEvent_of_cons hs).trans hsteps.1, hsteps.2⟩
    obtain ⟨hevent, hrest⟩ := hevents
    calc core.run (n + 1) s
      _ = core.run n s.consumeEvent.tickTimers := run_succ_of_step (step_of_waiting hevent hfault hwait) n
      _ = .next (s.consumeEvent.tickTimers.waitSteps n) := ih hfault hwait hrest
      _ = .next (s.waitSteps (n + 1)) := by rw [State.waitSteps_succ]

/-- Settles O11: an empty schedule holds no event but `Step`, and stays empty. -/
theorem keyWaitOnlyCountsTimersDown : Obligations.KeyWaitOnlyCountsTimersDown := by
  intro n s r hfault hwait hsched
  rw [run_of_waiting n hfault hwait (by simp [hsched]), State.waitSteps, hsched, List.drop_nil]

/-- Settles O19: the wait changes the timers and the schedule only, so the press finds the register still waiting. -/
theorem keyPressResumesAfterAnyWait : Obligations.KeyPressResumesAfterAnyWait := by
  intro n s r k hfault hwait hsched
  have hrun : core.run n s = .next (s.waitSteps n) :=
    run_of_waiting n hfault hwait fun e he => by
      rw [hsched, List.take_left' List.length_replicate] at he
      exact List.eq_of_mem_replicate he
  have hpress : (s.waitSteps n).hostSchedule = [.keyPress k] := by
    rw [State.waitSteps, hsched, List.drop_left' List.length_replicate]
  obtain ⟨t, ht, -, hend, hwaited, -, hparts, htail⟩ :=
    keyPressHoldsTheKeyAndEndsTheWait (s.waitSteps n) k (State.nextEvent_of_cons hpress)
  obtain ⟨hreg, hregs⟩ := hwaited r hwait
  obtain ⟨hparts, hregs⟩ := ((changesOnly.waitSteps s n).trans ⟨hparts, hregs⟩).mono
    (parts' := [.regs, .wait, .key, .dt, .st, .hostSchedule]) (by simp) (List.Subset.refl _)
  refine ⟨t, ?_, hreg, hend, ?_, ?_, hregs, hparts⟩
  · exact (run_add_of_run hrun 1).trans (run_succ_of_step ht 0)
  · exact (hparts .fault (by decide)).trans hfault
  · rw [htail, hpress]; rfl

end Sys2Proof.Machine

/-! PROOFS. The timer family (spec/46_timers.md): the three moves between a register and a timer. -/

namespace Sys2Proof.Machine

/-- Settles O55: the read of `DT` is one register write, whose frame is proved; each write of a timer is, with `PC`, the whole
operation. -/
theorem timerMovesCopyOneByte : Obligations.TimerMovesCopyOneByte := by
  intro x s
  have hread : exec (.ldVxDT x) s = .next (s.setReg x s.dt).advance := rfl
  have hdelay : exec (.ldDTVx x) s = .next { s with dt := s.reg x, pc := s.pc + 2#16 } := rfl
  have hsound : exec (.ldSTVx x) s = .next { s with st := s.reg x, pc := s.pc + 2#16 } := rfl
  exact ⟨⟨_, hread, s.hasResult_setReg_advance x s.dt⟩, hdelay, hsound⟩

end Sys2Proof.Machine

/-! PROOFS. The exceptions family (spec/60_exceptions.md): which answers are faults and which complete, from one operation over the
parts of a `Step` to the step, and what each leaves unchanged. -/

namespace Sys2Proof.Machine

open State (changesOnly)

/-! ### When an operation faults (R163, R166) -/

theorem State.fault_setRegsFrom (s : State) (k : Nat) (bytes : List Byte) : (s.setRegsFrom k bytes).fault = s.fault := by
  rw [setRegsFrom_eq]

/-- The answer of an operation that is to record this fault, or to complete where there is none: a recorded fault changes nothing
else, and a completed operation leaves `FAULT` alone. -/
def FaultsOrCompletes (s : State) (o : StepResult) : Option FaultRecord → Prop
  | some f => o = takeFault f s
  | none => ∃ t, o = .next t ∧ t.fault = s.fault

namespace FaultsOrCompletes

variable {s : State} {o : StepResult} {c : Prop} [Decidable c] {f : FaultRecord}

theorem of_ite (hfault : c → o = takeFault f s) (hdone : ¬c → ∃ t, o = .next t ∧ t.fault = s.fault) :
    FaultsOrCompletes s o (if c then some f else none) := by
  split_ifs with hc
  · exact hfault hc
  · exact hdone hc

/-! The operations with a range check: each faults where its range does not fit (R53). -/

theorem storeAtI {bytes : List Byte} (hc : c ↔ ¬(bytes.length = 0 ∨ s.dataAddr + bytes.length ≤ Config.memSize)) :
    FaultsOrCompletes s (storeAtI bytes s) (if c then some (boundsFault s.dataAddr) else none) := by
  rw [← inBounds_iff] at hc
  obtain ⟨hin, h⟩ | ⟨hout, h⟩ := storeAtI_cases bytes s
  · exact of_ite (fun h' => absurd hin (hc.1 h')) fun _ => ⟨_, h, rfl⟩
  · exact of_ite (fun _ => h) fun h' => absurd (hc.2 (Bool.eq_false_iff.1 hout)) h'

theorem execLdVxMem {x : Reg} (hc : c ↔ ¬(x.val + 1 = 0 ∨ s.dataAddr + (x.val + 1) ≤ Config.memSize)) :
    FaultsOrCompletes s (execLdVxMem x s) (if c then some (boundsFault s.dataAddr) else none) := by
  refine of_ite (fun h => ?_) fun h => ?_
  · rw [Machine.execLdVxMem, memRead_eq_error.2 ⟨hc.1 h, rfl⟩]
  · rw [Machine.execLdVxMem, memRead_eq_ok.2 ⟨not_not.1 (hc.not.1 h), rfl⟩]
    exact ⟨_, rfl, s.fault_setRegsFrom 0 _⟩

theorem execDrw {x y : Reg} {n : RowCount} (hc : c ↔ ¬(n.val = 0 ∨ s.dataAddr + n.val ≤ Config.memSize)) :
    FaultsOrCompletes s (execDrw x y n s) (if c then some (boundsFault s.dataAddr) else none) := by
  refine of_ite (fun h => ?_) fun h => ?_
  · rw [Machine.execDrw, memRead_eq_error.2 ⟨hc.1 h, rfl⟩]
  · rw [Machine.execDrw, memRead_eq_ok.2 ⟨not_not.1 (hc.not.1 h), rfl⟩]
    exact ⟨_, rfl, rfl⟩

end FaultsOrCompletes

/-- Each operation faults as the table of R163 says, and completes otherwise. -/
theorem exec_faultsOrCompletes (i : Instr) (s : State) : FaultsOrCompletes s (exec i s) (i.faultOf s) := by
  cases i with
  | call nnn =>
    exact .of_ite (exec_call_of_full nnn) fun h => ⟨_, exec_call_of_lt nnn (by omega), rfl⟩
  | ret => exact .of_ite exec_ret_of_empty fun h => ⟨_, exec_ret_of_pos (by omega), rfl⟩
  | drw x y n => exact .execDrw (by rw [State.dataAddr, Config.memSize]; omega)
  | ldB x => exact .storeAtI (by rw [length_bcdDigits, State.dataAddr, Config.memSize]; omega)
  | ldMemVx x => exact .storeAtI (by rw [State.length_regBlock, State.dataAddr, Config.memSize]; omega)
  | ldVxMem x => exact .execLdVxMem (by rw [State.dataAddr, Config.memSize]; omega)
  | cls | jp _ | seImm _ _ | sneImm _ _ | seReg _ _ | sneReg _ _ | ldImm _ _ | addImm _ _ | ldReg _ _ | orReg _ _
  | andReg _ _ | xorReg _ _ | addReg _ _ | sub _ _ | shr _ _ | subn _ _ | shl _ _ | ldI _ | jpV0 _ | rnd _ _ | skp _
  | sknp _ | ldVxDT _ | ldVxK _ | ldDTVx _ | ldSTVx _ | addI _ | ldF _ => exact ⟨_, rfl, rfl⟩

/-- An operation records a fault and does nothing else, or completes and leaves `FAULT` alone. -/
theorem exec_cases (i : Instr) (s : State) :
    (∃ f, exec i s = takeFault f s) ∨ ∃ t, exec i s = .next t ∧ t.fault = s.fault := by
  have h := exec_faultsOrCompletes i s
  cases hf : i.faultOf s with
  | some f => exact .inl ⟨f, by rwa [hf] at h⟩
  | none => exact .inr (by rwa [hf] at h)

/-- Settles O15, on each side of the fault table. -/
theorem operationsFaultExactlyWhenTheRulesSay : Obligations.OperationsFaultExactlyWhenTheRulesSay := by
  intro i s
  have h := exec_faultsOrCompletes i s
  exact ⟨fun f hf => by rwa [hf] at h, fun hf => by rwa [hf] at h⟩

/-! ### The parts of a `Step` (R161, R164) -/

/-- Two bytes in memory at `PC` are the word the fetch reads, the high byte first (R55). -/
theorem fetchWord_of_toNat {m : Memory} {pc : Nat} {w : Word} (hpc : pc + 1 ≤ 4095)
    (hw : w.toNat = (m.byteAt pc).toNat * 256 + (m.byteAt (pc + 1)).toNat) : fetchWord m pc = .ok w :=
  fetchWord_eq_ok.2 ⟨Nat.lt_succ_of_le hpc, BitVec.eq_of_toNat_eq (hw.trans (toNat_wordOfBytes _ _).symm)⟩

theorem step_of_executes {s : State} {i : Instr} (hevent : s.nextEvent = .step) (h : s.executes i) :
    step s = exec i s.consumeEvent.tickTimers :=
  (step_of_nextEvent hevent).trans (stepEvent_of_executes (s := s.consumeEvent) h)

theorem step_of_fetchWord_error {s : State} {f : FaultRecord} (hevent : s.nextEvent = .step) (hfault : s.fault = none)
    (hwait : s.wait = none) (hfetch : fetchWord s.mem s.pc.toNat = .error f) :
    step s = takeFault f s.consumeEvent.tickTimers := by
  simp [step, handleEvent, stepEvent, fetchDecodeExecute, hevent, hfault, hwait, hfetch]

/-- Settles O6: the two bytes are the word the step decodes, and the timers are counted before the operation. -/
theorem stepRunsTheDecodedInstruction : Obligations.StepRunsTheDecodedInstruction :=
  fun _ w _ hevent hfault hwait hpc hw hdecode =>
    step_of_executes hevent ⟨hfault, hwait, w, fetchWord_of_toNat hpc hw, hdecode⟩

/-- Settles O7: the fetch fails its range check. -/
theorem fetchOutsideMemoryRecordsBoundsFault : Obligations.FetchOutsideMemoryRecordsBoundsFault :=
  fun _ hevent hfault hwait hpc =>
    step_of_fetchWord_error hevent hfault hwait (fetchWord_eq_error.2 ⟨Nat.not_lt.2 (Nat.succ_le_succ hpc), rfl⟩)

/-- Settles O8: a word without an operation is a decode failure, which the step records. -/
theorem undecodableWordRecordsDecodeFault : Obligations.UndecodableWordRecordsDecodeFault := by
  intro s w hevent hfault hwait hpc hw hundecodable
  cases hdecode : decodeWord w with
  | error e => exact step_of_decodeWord_error hevent hfault hwait (fetchWord_of_toNat hpc hw) hdecode
  | ok i => exact absurd hdecode (hundecodable i)

/-- A `Step` of an unfaulted core waits on, records a fault after the timers, or completes one operation. -/
theorem step_cases_of_unfaulted {s : State} (hevent : s.nextEvent = .step) (hfault : s.fault = none) :
    (s.wait ≠ none ∧ step s = .next s.consumeEvent.tickTimers) ∨
    (∃ f, s.wait = none ∧ step s = takeFault f s.consumeEvent.tickTimers) ∨
    (∃ i t, s.executes i ∧ step s = .next t ∧ exec i s.consumeEvent.tickTimers = .next t ∧ t.fault = none) := by
  rw [step_of_nextEvent hevent, handleEvent]
  obtain ⟨hf, -⟩ | ⟨-, hw, e⟩ | ⟨-, hw, -, e⟩ | ⟨w, err, -, hw, -, -, e⟩ | ⟨w, i, -, hw, hx, hd, e⟩ :=
    stepEvent_cases s.consumeEvent
  · exact absurd hfault hf
  · exact .inl ⟨hw, e⟩
  · exact .inr (.inl ⟨_, hw, e⟩)
  · exact .inr (.inl ⟨_, hw, e⟩)
  · obtain ⟨f, h⟩ | ⟨t, h, ht⟩ := exec_cases i s.consumeEvent.tickTimers
    · exact .inr (.inl ⟨f, hw, e.trans h⟩)
    · exact .inr (.inr ⟨i, t, ⟨hfault, hw, w, hx, hd⟩, e.trans h, h, ht.trans hfault⟩)

/-- Settles O16: of the three ways a `Step` can end only the recorded fault leaves `FAULT` set. -/
theorem faultsArePrecise : Obligations.FaultsArePrecise := by
  intro s t hevent hfault hstep ht
  obtain ⟨-, h⟩ | ⟨f, hwait, h⟩ | ⟨i, u, -, h, -, hu⟩ := step_cases_of_unfaulted hevent hfault <;>
    obtain rfl := Host.Outcome.next.inj (hstep.symm.trans h)
  · exact absurd hfault ht
  · exact ⟨rfl, rfl, hwait, hwait⟩
  · exact absurd hu ht

/-! ### The timers (R177) -/

theorem Part.same_refl (p : Part) (s : State) : p.same s s := by
  cases p with
  | regs | mem => exact fun _ => rfl
  | fb => exact fun _ _ => rfl
  | i | pc | stack | sp | dt | st | key | wait | fault | hostSchedule | draws => rfl

/-- After the timers are counted, a `Step` of an unfaulted core changes `FAULT` and the parts of the operation it executes. -/
theorem step_keeps_part {s t : State} {p : Part} (hevent : s.nextEvent = .step) (hfault : s.fault = none)
    (hstep : step s = .next t) (hp : p ≠ .fault) (hexec : ∀ i, s.executes i → p ∉ i.changes) :
    p.same s.consumeEvent.tickTimers t := by
  obtain ⟨-, h⟩ | ⟨f, -, h⟩ | ⟨i, u, hi, h, hu, -⟩ := step_cases_of_unfaulted hevent hfault <;>
    obtain rfl := Host.Outcome.next.inj (hstep.symm.trans h)
  · exact p.same_refl _
  · exact (changesOnly.recordFault _ (parts := [.fault]) (regs := []) (by simp) f).1 p (by simpa using hp)
  · exact (operationsChangeOnlyTheirParts i _ _ hu).1 p (hexec i hi)

/-! In the table of R21 and R38 each timer stands with its own writer alone. -/

theorem dt_mem_changes_iff {i : Instr} : Part.dt ∈ i.changes ↔ ∃ x, i = .ldDTVx x := by
  cases i <;> simp [Instr.changes]

theorem st_mem_changes_iff {i : Instr} : Part.st ∈ i.changes ↔ ∃ x, i = .ldSTVx x := by
  cases i <;> simp [Instr.changes]

/-- Settles O12: part 2 of the step counts, and after it only the two writers touch a timer. -/
theorem timersCountOncePerStep : Obligations.TimersCountOncePerStep := by
  intro s t hevent hfault hstep
  refine ⟨fun hno => ?_, fun x hx => ?_, fun hno => ?_, fun x hx => ?_⟩
  · have hkept : t.dt = tick s.dt := step_keeps_part (p := .dt) hevent hfault hstep nofun fun i hi hm =>
      have ⟨x, hix⟩ := dt_mem_changes_iff.1 hm
      hno x (hix ▸ hi)
    rw [hkept, toNat_tick]
  · obtain rfl := Host.Outcome.next.inj (hstep.symm.trans (step_of_executes hevent hx))
    rfl
  · have hkept : t.st = tick s.st := step_keeps_part (p := .st) hevent hfault hstep nofun fun i hi hm =>
      have ⟨x, hix⟩ := st_mem_changes_iff.1 hm
      hno x (hix ▸ hi)
    rw [hkept, toNat_tick]
  · obtain rfl := Host.Outcome.next.inj (hstep.symm.trans (step_of_executes hevent hx))
    rfl

/-! ### Every step answers (R163, R191) -/

theorem exec_answers (i : Instr) (s : State) : ∃ t, exec i s = .next t := by
  obtain ⟨f, h⟩ | ⟨t, h, -⟩ := exec_cases i s
  · exact ⟨_, h⟩
  · exact ⟨t, h⟩

theorem stepEvent_answers (s : State) : ∃ t, stepEvent s = .next t := by
  obtain ⟨-, e⟩ | ⟨-, -, e⟩ | ⟨-, -, -, e⟩ | ⟨w, err, -, -, -, -, e⟩ | ⟨w, i, -, -, -, -, e⟩ := stepEvent_cases s <;>
    rw [e]
  case inr.inr.inr.inr => exact exec_answers i _
  all_goals exact ⟨_, rfl⟩

/-- Settles O14: each event answers, a reset because its image fits. -/
theorem everyStepAnswersANextState : Obligations.EveryStepAnswersANextState := by
  intro s hreset
  obtain ⟨-, e⟩ | ⟨k, -, e⟩ | ⟨k, -, e⟩ | ⟨image, hevent, e⟩ := step_cases s <;> rw [e]
  · exact stepEvent_answers _
  · exact ⟨_, rfl⟩
  · exact ⟨_, rfl⟩
  · exact ⟨_, if_pos (decide_eq_true (hreset image hevent))⟩

/-! ### A faulted core (R167, R168) -/

/-- A faulted core that does not wait takes a `Step` as nothing at all, and a key event as one write of `KEY`. -/
theorem step_of_faulted {s : State} {f : FaultRecord} (hfault : s.fault = some f) (hwait : s.wait = none)
    (hreset : ∀ image, s.nextEvent ≠ .reset image) :
    step s = .next s.consumeEvent ∨
      s.nextEvent ≠ .step ∧ ∃ k held, step s = .next (s.consumeEvent.setKey k held) := by
  obtain ⟨-, e⟩ | ⟨k, hevent, e⟩ | ⟨k, hevent, e⟩ | ⟨image, hevent, -⟩ := step_cases s
  · exact .inl (e.trans (if_pos (by simp [hfault])))
  · obtain ⟨-, hk⟩ | ⟨r, hr, -⟩ := s.consumeEvent.keyPress_cases k
    · exact .inr ⟨by simp [hevent], k, true, by rw [e, hk]⟩
    · cases hwait.symm.trans hr
  · exact .inr ⟨by simp [hevent], k, false, e⟩
  · exact absurd hevent (hreset image)

/-- Settles O10: the invariant leaves a faulted core without a wait, so a key event has only `KEY` to write. -/
theorem faultedCoreIsFrozenUntilReset : Obligations.FaultedCoreIsFrozenUntilReset := by
  intro s f hinv hfault hreset
  have hwait : s.wait = none := hinv.faultNoWait (by simp [hfault])
  have hkeys (k : Key) (held : Bool) :=
    ((changesOnly.consumeEvent s).trans (.setKey _ k held)).mono (parts' := [.key, .hostSchedule]) (regs' := [])
      (by simp) (by simp)
  obtain h | ⟨hevent, k, held, h⟩ := step_of_faulted hfault hwait hreset
  · exact ⟨_, h, hfault, ((changesOnly.consumeEvent s).mono (by simp) (List.Subset.refl _)).1, rfl, fun _ => rfl⟩
  · exact ⟨_, h, hfault, (hkeys k held).1, rfl, fun hstep => absurd hstep hevent⟩

end Sys2Proof.Machine

/-! PROOFS. The reset and hazards family (spec/70_reset_and_hazards.md): the machine a reset builds or refuses, a timer read in the
step after its write, and a run that has ended in a jump to itself. -/

namespace Sys2Proof.Machine

/-! ### Reset (R190, R191) -/

theorem resetEvent_of_fits {image : List Byte} (h : image.length ≤ 3584) (s : State) :
    resetEvent image s = .next (s.resetWith image) := if_pos (decide_eq_true h)

theorem resetEvent_of_tooLarge {image : List Byte} (h : 3584 < image.length) (s : State) :
    resetEvent image s = .refused (.imageTooLarge image.length) :=
  if_neg fun hfits => absurd (of_decide_eq_true hfits) (Nat.not_le.2 h)

/-- Right after a reset memory holds the font and zeros (R33, R37). -/
theorem resetByte_eq (a : Nat) : resetByte a = if a < 80 then fontTable.getD a 0 else 0#8 := by
  split
  · rfl
  · exact resetByte_of_le (by omega)

/-- Memory with an image laid over it reads as the image inside and as the reset contents outside (R190). -/
theorem byteAt_imageCells {start : Nat} {image : List Byte} (h : start + image.length ≤ Config.memSize) (a : Nat) :
    (imageCells start image).byteAt a =
      if start ≤ a ∧ a < start + image.length then image.getD (a - start) 0 else resetByte a := by
  induction image generalizing start with
  | nil => rw [if_neg (by simp)]; rfl
  | cons u rest ih =>
    rw [List.length_cons] at h ⊢
    rw [imageCells, Memory.byteAt_consCell (wfFrom_imageCells (Nat.le_refl _) (by omega)), ih (by omega)]
    by_cases hfirst : a = start
    · subst hfirst; simp
    · rw [if_neg hfirst]
      by_cases hrest : start + 1 ≤ a ∧ a < start + 1 + rest.length
      · rw [if_pos hrest, if_pos (by omega), show a - start = a - (start + 1) + 1 by omega, List.getD_cons_succ]
      · rw [if_neg hrest, if_neg (by omega)]

/-- Memory after a reset: the font, the image from 0x200 on, which lies past the font, and zeros (R37). -/
theorem byteAt_resetWith (s : State) {image : List Byte} (h : image.length ≤ 3584) (a : Nat) :
    (s.resetWith image).mem.byteAt a =
      if a < 80 then fontTable.getD a 0
      else if 0x200 ≤ a ∧ a < 0x200 + image.length then image.getD (a - 0x200) 0
      else 0#8 := by
  have hread : (s.resetWith image).mem.byteAt a =
      if 0x200 ≤ a ∧ a < 0x200 + image.length then image.getD (a - 0x200) 0 else resetByte a :=
    byteAt_imageCells (by simp only [Config.progBase, Config.memSize]; omega) a
  rw [hread, resetByte_eq]
  by_cases hfont : a < 80
  · rw [if_neg (by omega), if_pos hfont, if_pos hfont]
  · rw [if_neg hfont, if_neg hfont]

/-- Settles O20: an image that fits gives the reset state with its bytes in memory, the values entry by entry; a larger one is
refused. -/
theorem resetBuildsTheMachineOrRefuses : Obligations.ResetBuildsTheMachineOrRefuses := by
  intro s image hevent
  have hstep : step s = resetEvent image s.consumeEvent := step_of_nextEvent hevent
  constructor
  · intro hfits
    exact ⟨_, hstep.trans (resetEvent_of_fits hfits _), reg_reset, rfl, rfl, rfl, stack_reset, rfl, rfl, key_reset, rfl,
      pixel_reset, rfl, byteAt_resetWith _ hfits, rfl, rfl⟩
  · intro hlarge
    exact hstep.trans (resetEvent_of_tooLarge hlarge _)

/-! ### A timer read right after its write (R196) -/

/-- A `Step` that reads the delay timer reads it after the count of part 2 (R161, R157). -/
theorem reg_of_step_ldVxDT {s t : State} {x : Reg} (hevent : s.nextEvent = .step) (h : s.executes (.ldVxDT x))
    (hstep : step s = .next t) : t.reg x = tick s.dt := by
  obtain rfl := Host.Outcome.next.inj (hstep.symm.trans (step_of_executes hevent h))
  exact State.reg_setReg_self _ x _

/-- Settles O13: the write is left whole by its own step, and the next step counts once before it reads. -/
theorem timerReadAfterWriteIsOneLess : Obligations.TimerReadAfterWriteIsOneLess := by
  intro s t u x y hsevent hwrite hs htevent hread ht
  obtain ⟨-, hwritten, -, -⟩ := timersCountOncePerStep s t hsevent hwrite.1 hs
  rw [reg_of_step_ldVxDT htevent hread ht, toNat_tick, hwritten x hwrite]

/-! ### A run that has ended successfully (R199) -/

/-- The operation at the end of a run is the jump whose target is `PC`. -/
theorem State.endedSuccessfully.executes_jp {s : State} (h : s.endedSuccessfully) :
    ∃ nnn, zextImm nnn = s.pc ∧ s.executes (.jp nnn) := by
  obtain ⟨hfault, hwait, hpc, hfetch⟩ := h
  have htarget : zextImm (fieldNNN s.pc) = s.pc := by
    apply BitVec.eq_of_toNat_eq
    rw [toNat_zextImm, toNat_fieldNNN]
    omega
  have hword : encode (.jp (fieldNNN s.pc)) = 0x1000#16 ||| s.pc := congrArg (0x1000#16 ||| ·) htarget
  exact ⟨_, htarget, hfault, hwait, _, hfetch, hword ▸ decodeWord_encode _⟩

/-- A jump to itself leaves of a `Step` only the count of the timers. -/
theorem step_of_ended {s : State} (hevent : s.nextEvent = .step) (h : s.endedSuccessfully) :
    step s = .next s.consumeEvent.tickTimers := by
  obtain ⟨nnn, htarget, hexec⟩ := h.executes_jp
  rw [step_of_executes hevent hexec, exec_jp, htarget]
  rfl

/-- The end of a run does not depend on the timers or the schedule, so each further step starts from an ended run again. -/
theorem run_of_ended (n : Nat) {s : State} (h : s.endedSuccessfully) (hsched : s.hostSchedule = []) :
    core.run n s = .next (s.waitSteps n) := by
  induction n generalizing s with
  | zero => rw [State.waitSteps_zero]; rfl
  | succ n ih =>
    have hended : s.consumeEvent.tickTimers.endedSuccessfully := h
    have hrest : s.consumeEvent.tickTimers.hostSchedule = [] := by simp [hsched]
    calc core.run (n + 1) s
      _ = core.run n s.consumeEvent.tickTimers := run_succ_of_step (step_of_ended (State.nextEvent_of_nil hsched) h) n
      _ = .next (s.consumeEvent.tickTimers.waitSteps n) := ih hended hrest
      _ = .next (s.waitSteps (n + 1)) := by rw [State.waitSteps_succ]

/-- Settles O27: the steps take nothing off an empty schedule. -/
theorem endedRunOnlyCountsTimersDown : Obligations.EndedRunOnlyCountsTimersDown := by
  intro n s hended hsched
  rw [run_of_ended n hended hsched, State.waitSteps, hsched, List.drop_nil]

end Sys2Proof.Machine
